-- ==== Sys2Proof/Word.lean ====
section
/-! DEFINITION. The word types of the machine (00_scope.md R8, R10, R11): every value is an unsigned integer of a fixed width. -/

namespace Sys2Proof

/-- An 8-bit unsigned value: a general register, a timer, a byte of memory, the immediate `kk`. -/
abbrev Byte := BitVec 8

/-- A 16-bit unsigned value: an opcode word, PC, I, the information of a fault. -/
abbrev Word := BitVec 16

/-- A 12-bit unsigned address: the immediate `nnn`, an entry of the call stack. -/
abbrev Addr := BitVec 12

/-- The index of a general register V0..VF, or of a key (R31, R210). -/
abbrev RegIdx := Fin 16

/-- The index of VF, the register that doubles as the status flag (R32). -/
abbrev regF : RegIdx := 15

end Sys2Proof
end

