-- ==== Sys2Proof/Syntax.lean ====
section
/-! DEFINITION. The instructions: one constructor per row of the Instruction Table (30_encoding.md R86), its operands in
the row's list order (R81, R82).  Register fields are indices, `kk` a byte, `nnn` a 12-bit address, `n` a count. -/

namespace Sys2Proof

inductive Instr where
  | cls                                       -- 00E0
  | ret                                       -- 00EE
  | jmpAddr  (nnn : Addr)                     -- 1nnn
  | callAddr (nnn : Addr)                     -- 2nnn
  | seImm    (x : RegIdx) (kk : Byte)         -- 3xkk
  | sneImm   (x : RegIdx) (kk : Byte)         -- 4xkk
  | seReg    (x y : RegIdx)                   -- 5xy0
  | ldImm    (x : RegIdx) (kk : Byte)         -- 6xkk
  | addImm   (x : RegIdx) (kk : Byte)         -- 7xkk
  | ldReg    (x y : RegIdx)                   -- 8xy0
  | orReg    (x y : RegIdx)                   -- 8xy1
  | andReg   (x y : RegIdx)                   -- 8xy2
  | xorReg   (x y : RegIdx)                   -- 8xy3
  | addReg   (x y : RegIdx)                   -- 8xy4
  | sub      (x y : RegIdx)                   -- 8xy5
  | shr      (x y : RegIdx)                   -- 8xy6
  | subn     (x y : RegIdx)                   -- 8xy7
  | shl      (x y : RegIdx)                   -- 8xyE
  | sneReg   (x y : RegIdx)                   -- 9xy0
  | ldIAddr  (nnn : Addr)                     -- Annn
  | jpV0Addr (nnn : Addr)                     -- Bnnn
  | rnd      (x : RegIdx) (kk : Byte)         -- Cxkk
  | drw      (x y : RegIdx) (n : Nat)         -- Dxyn
  | skp      (x : RegIdx)                     -- Ex9E
  | sknp     (x : RegIdx)                     -- ExA1
  | ldVxDt   (x : RegIdx)                     -- Fx07
  | ldVxK    (x : RegIdx)                     -- Fx0A
  | ldDtVx   (x : RegIdx)                     -- Fx15
  | ldStVx   (x : RegIdx)                     -- Fx18
  | addIVx   (x : RegIdx)                     -- Fx1E
  | ldFVx    (x : RegIdx)                     -- Fx29
  | ldBVx    (x : RegIdx)                     -- Fx33
  | ldIVx    (x : RegIdx)                     -- Fx55
  | ldVxI    (x : RegIdx)                     -- Fx65
deriving DecidableEq, Repr

end Sys2Proof
end

