-- ==== Sys2Proof/WellFormed.lean ====
section
/-! DEFINITION. When a term of `Instr` is an instruction some word encodes.  The widths of the register, byte and address
operands are facts of their types; the one check left is DRW's row count (30_encoding.md R81: n is 0..15). -/

namespace Sys2Proof

/-- R81, R82: "n is a 4-bit unsigned count". -/
def Instr.wf : Instr → Bool
  | .drw _ _ n => decide (n ≤ 15)
  | .cls | .ret | .jmpAddr _ | .callAddr _ | .seImm _ _ | .sneImm _ _ | .seReg _ _ | .ldImm _ _ | .addImm _ _ | .ldReg _ _
  | .orReg _ _ | .andReg _ _ | .xorReg _ _ | .addReg _ _ | .sub _ _ | .shr _ _ | .subn _ _ | .shl _ _ | .sneReg _ _
  | .ldIAddr _ | .jpV0Addr _ | .rnd _ _ | .skp _ | .sknp _ | .ldVxDt _ | .ldVxK _ | .ldDtVx _ | .ldStVx _ | .addIVx _
  | .ldFVx _ | .ldBVx _ | .ldIVx _ | .ldVxI _ => true

end Sys2Proof
end

