-- ==== Sys2Proof/Decode.lean ====
section
/-! DEFINITION. The decoder (30_encoding.md R81, R84–R89), total on any word and any bytes, and the encoder written from the
formats of R83. -/

namespace Sys2Proof

/-- R65, R103: `w <- (zext_16(MEM[PC]) << 8) OR zext_16(MEM[PC + 1])`, big-endian. -/
def wordOfBytes (hi lo : Byte) : Word := (hi.setWidth 16 <<< 8) ||| lo.setWidth 16

/-- The byte at the lower address of a word laid out big-endian. -/
def highByte (w : Word) : Byte := (w >>> 8).setWidth 8

/-- The byte at the higher address of a word laid out big-endian. -/
def lowByte (w : Word) : Byte := w.setWidth 8

/-! ### Operand descriptors (R81) -/

/-- R81: "decoded value = (opcode AND descriptor.mask) right-shifted by descriptor.shift". -/
def descriptor (mask : Word) (shift : Nat) (w : Word) : Word := (w &&& mask) >>> shift

def fieldX (w : Word) : RegIdx := Fin.ofNat 16 (descriptor 0x0F00 8 w).toNat
def fieldY (w : Word) : RegIdx := Fin.ofNat 16 (descriptor 0x00F0 4 w).toNat
def fieldN (w : Word) : Nat := (descriptor 0x000F 0 w).toNat
def fieldKK (w : Word) : Byte := (descriptor 0x00FF 0 w).setWidth 8
def fieldNNN (w : Word) : Addr := (descriptor 0x0FFF 0 w).setWidth 12

/-! ### The Instruction Table (R86) -/

/-- A row of R86: mask M, pattern P, and the instruction its descriptors read from a word. -/
structure Row where
  mask  : Word
  pat   : Word
  build : Word → Instr

/-- R87: the row matches `w` when `(w AND M) == P`. -/
def Row.fits (r : Row) (w : Word) : Bool := w &&& r.mask == r.pat

def tableControl : List Row := [
  ⟨0xFFFF, 0x00E0, fun _ => .cls⟩,
  ⟨0xFFFF, 0x00EE, fun _ => .ret⟩,
  ⟨0xF000, 0x1000, fun w => .jmpAddr (fieldNNN w)⟩,
  ⟨0xF000, 0x2000, fun w => .callAddr (fieldNNN w)⟩,
  ⟨0xF000, 0x3000, fun w => .seImm (fieldX w) (fieldKK w)⟩,
  ⟨0xF000, 0x4000, fun w => .sneImm (fieldX w) (fieldKK w)⟩,
  ⟨0xF00F, 0x5000, fun w => .seReg (fieldX w) (fieldY w)⟩,
  ⟨0xF000, 0x6000, fun w => .ldImm (fieldX w) (fieldKK w)⟩,
  ⟨0xF000, 0x7000, fun w => .addImm (fieldX w) (fieldKK w)⟩]

def tableAlu : List Row := [
  ⟨0xF00F, 0x8000, fun w => .ldReg (fieldX w) (fieldY w)⟩,
  ⟨0xF00F, 0x8001, fun w => .orReg (fieldX w) (fieldY w)⟩,
  ⟨0xF00F, 0x8002, fun w => .andReg (fieldX w) (fieldY w)⟩,
  ⟨0xF00F, 0x8003, fun w => .xorReg (fieldX w) (fieldY w)⟩,
  ⟨0xF00F, 0x8004, fun w => .addReg (fieldX w) (fieldY w)⟩,
  ⟨0xF00F, 0x8005, fun w => .sub (fieldX w) (fieldY w)⟩,
  ⟨0xF00F, 0x8006, fun w => .shr (fieldX w) (fieldY w)⟩,
  ⟨0xF00F, 0x8007, fun w => .subn (fieldX w) (fieldY w)⟩,
  ⟨0xF00F, 0x800E, fun w => .shl (fieldX w) (fieldY w)⟩]

def tableRest : List Row := [
  ⟨0xF00F, 0x9000, fun w => .sneReg (fieldX w) (fieldY w)⟩,
  ⟨0xF000, 0xA000, fun w => .ldIAddr (fieldNNN w)⟩,
  ⟨0xF000, 0xB000, fun w => .jpV0Addr (fieldNNN w)⟩,
  ⟨0xF000, 0xC000, fun w => .rnd (fieldX w) (fieldKK w)⟩,
  ⟨0xF000, 0xD000, fun w => .drw (fieldX w) (fieldY w) (fieldN w)⟩,
  ⟨0xF0FF, 0xE09E, fun w => .skp (fieldX w)⟩,
  ⟨0xF0FF, 0xE0A1, fun w => .sknp (fieldX w)⟩,
  ⟨0xF0FF, 0xF007, fun w => .ldVxDt (fieldX w)⟩,
  ⟨0xF0FF, 0xF00A, fun w => .ldVxK (fieldX w)⟩,
  ⟨0xF0FF, 0xF015, fun w => .ldDtVx (fieldX w)⟩,
  ⟨0xF0FF, 0xF018, fun w => .ldStVx (fieldX w)⟩,
  ⟨0xF0FF, 0xF01E, fun w => .addIVx (fieldX w)⟩,
  ⟨0xF0FF, 0xF029, fun w => .ldFVx (fieldX w)⟩,
  ⟨0xF0FF, 0xF033, fun w => .ldBVx (fieldX w)⟩,
  ⟨0xF0FF, 0xF055, fun w => .ldIVx (fieldX w)⟩,
  ⟨0xF0FF, 0xF065, fun w => .ldVxI (fieldX w)⟩]

/-- R86: the 34 rows in the source's tag order. -/
def instructionTable : List Row := tableControl ++ tableAlu ++ tableRest

/-! ### The decoder (R87, R89) -/

/-- Why bytes do not decode: R89's verdict on a word, or too few bytes for one word (R80: always 2). -/
inductive DecodeError where
  | unknownOpcode (w : Word)
  | truncated (bytes : List Byte)
deriving DecidableEq, Repr

/-- R87: the first row, in the table's order, that matches the word; else UnknownOpcode. -/
def decodeWord (w : Word) : Except DecodeError Instr :=
  match instructionTable.find? (·.fits w) with
  | some r => .ok (r.build w)
  | none => .error (.unknownOpcode w)

/-- R80, R65: an instruction is the first two bytes, big-endian; the bytes after it are handed back. -/
def decode : List Byte → Except DecodeError (Instr × List Byte)
  | hi :: lo :: rest =>
    match decodeWord (wordOfBytes hi lo) with
    | .ok i => .ok (i, rest)
    | .error e => .error e
  | bytes => .error (.truncated bytes)

/-! ### The encoder (R83)

Each format is a word written most significant nibble first. -/

/-- A register field: four bits. -/
def regBits (r : RegIdx) : BitVec 4 := BitVec.ofNat 4 r.val

/-- Format A: `op n n n`. -/
def formatA (op : BitVec 4) (nnn : Addr) : Word := op ++ nnn

/-- Format XK: `op x k k`. -/
def formatXK (op : BitVec 4) (x : RegIdx) (kk : Byte) : Word := op ++ regBits x ++ kk

/-- Format XY: `op x y f`. -/
def formatXY (op : BitVec 4) (x y : RegIdx) (f : BitVec 4) : Word := op ++ regBits x ++ regBits y ++ f

/-- Format X: `op x f f`. -/
def formatX (op : BitVec 4) (x : RegIdx) (ff : Byte) : Word := op ++ regBits x ++ ff

/-- The word of an instruction, from the formats of R83 and the literal digits of R86. -/
def encode : Instr → Word
  | .cls => 0x00E0
  | .ret => 0x00EE
  | .jmpAddr nnn => formatA 0x1 nnn
  | .callAddr nnn => formatA 0x2 nnn
  | .seImm x kk => formatXK 0x3 x kk
  | .sneImm x kk => formatXK 0x4 x kk
  | .seReg x y => formatXY 0x5 x y 0x0
  | .ldImm x kk => formatXK 0x6 x kk
  | .addImm x kk => formatXK 0x7 x kk
  | .ldReg x y => formatXY 0x8 x y 0x0
  | .orReg x y => formatXY 0x8 x y 0x1
  | .andReg x y => formatXY 0x8 x y 0x2
  | .xorReg x y => formatXY 0x8 x y 0x3
  | .addReg x y => formatXY 0x8 x y 0x4
  | .sub x y => formatXY 0x8 x y 0x5
  | .shr x y => formatXY 0x8 x y 0x6
  | .subn x y => formatXY 0x8 x y 0x7
  | .shl x y => formatXY 0x8 x y 0xE
  | .sneReg x y => formatXY 0x9 x y 0x0
  | .ldIAddr nnn => formatA 0xA nnn
  | .jpV0Addr nnn => formatA 0xB nnn
  | .rnd x kk => formatXK 0xC x kk
  | .drw x y n => formatXY 0xD x y (BitVec.ofNat 4 n)
  | .skp x => formatX 0xE x 0x9E
  | .sknp x => formatX 0xE x 0xA1
  | .ldVxDt x => formatX 0xF x 0x07
  | .ldVxK x => formatX 0xF x 0x0A
  | .ldDtVx x => formatX 0xF x 0x15
  | .ldStVx x => formatX 0xF x 0x18
  | .addIVx x => formatX 0xF x 0x1E
  | .ldFVx x => formatX 0xF x 0x29
  | .ldBVx x => formatX 0xF x 0x33
  | .ldIVx x => formatX 0xF x 0x55
  | .ldVxI x => formatX 0xF x 0x65

/-! ### The table's numbering

`spec/opcode_table.json` numbers a row's 16 bits with bit 0 the least significant of the word. -/

/-- The word of a table row's bits: those above `nbits` are 0. -/
def tableWord (nbits w : Nat) : Word := BitVec.ofNat 16 (w % 2 ^ nbits)

/-- The instruction the decoder reads from the bytes of a table word, laid out big-endian (R65). -/
def decodeTableWord (nbits w : Nat) : Option Instr :=
  match decode [highByte (tableWord nbits w), lowByte (tableWord nbits w)] with
  | .ok (i, _) => some i
  | .error _ => none

end Sys2Proof
end

