-- ==== Sys2Proof/Config.lean ====
section
/-! DEFINITION. What is fixed for one machine: the sizes of 00_scope.md R8, the configuration parameters of R9 (their
defaults stand in Machine/Defaults.lean), and the one free value, the random-number source (R9 `RNG`, 42_register_alu.md R151). -/

namespace Sys2Proof.Config

/-- R8 `MEM_SIZE`: 4096 bytes, addresses 0x000–0xFFF. -/
abbrev memSize : Nat := 0x1000

/-- R8 `PROGRAM_BASE`: where the ROM is loaded, and the reset value of PC. -/
abbrev programBase : Nat := 0x200

/-- R8 `ROM_MAX`: 4096 − 0x200 = 3584 bytes. -/
abbrev romMax : Nat := 3584

/-- R9 `P_OPERAND_READ` (R16): how a statement of a handler reads a register that an earlier statement wrote. -/
inductive OperandRead where
  | live
  | snapshot
deriving DecidableEq, Repr

/-- R9 `P_SHIFT`: which register 8xy6 and 8xyE shift. -/
inductive ShiftVariant where
  | modern
  | legacy
deriving DecidableEq, Repr

/-- R9 `P_LS_RANGE`: how many registers Fx55 and Fx65 move. -/
inductive LsRange where
  | exclusive
  | inclusive
deriving DecidableEq, Repr

/-- R9 `P_SUB_FLAG`: the comparison that sets VF in SUB and SUBN. -/
inductive SubFlag where
  | strict
  | ge
deriving DecidableEq, Repr

/-- R9 `P_TIMER_MODE`: whether the timers decay in Tick or on TimerStrobe. -/
inductive TimerMode where
  | perTick
  | external
deriving DecidableEq, Repr

/-- The font: 16 glyphs of 5 bytes, glyph d at 5·d, one byte per row from top to bottom (20_memory.md R63). -/
abbrev Font := Vector (Vector Byte 5) 16

/-- The configuration parameters of R9, one field each.  A machine has one value of them; no step writes them.
They stand in the state because the step relation takes them as an argument (DESIGN CHOICE, log 1; safe). -/
structure Params where
  /-- `P_RET_ADVANCE`: RET takes the auto-advance (R107, R120). -/
  retAdvance  : Bool
  operandRead : OperandRead
  shift       : ShiftVariant
  lsRange     : LsRange
  subFlag     : SubFlag
  timerMode   : TimerMode
  font        : Font
  /-- The seed of the `RNG` triple, in S = Nat (log 7). -/
  rngSeed     : Nat
deriving DecidableEq, Repr

/-- `RNG.next` of R9: from a state of the random-number source, the byte drawn and the next state.
A free value: "a model quantifies over every RNG parameter and a proof may assume nothing of b" (R151).
It has no body, so nothing in Lean knows a value of it.  DESIGN CHOICE (log 7): S is Nat; safe. -/
opaque rngNext : Nat → Byte × Nat

end Sys2Proof.Config
end

