-- ==== Sys2Proof/Machine/Defaults.lean ====
section
/-! DEFINITION. The defaults of the configuration parameters (00_scope.md R9), the font among them (20_memory.md R63). -/

namespace Sys2Proof.Config

/-- Glyphs 0 to 7 of the table of 20_memory.md R63. -/
def glyphs0to7 : Vector (Vector Byte 5) 8 :=
  #v[#v[0xF0, 0x90, 0x90, 0x90, 0xF0],
     #v[0x20, 0x60, 0x20, 0x20, 0x70],
     #v[0xF0, 0x10, 0xF0, 0x80, 0xF0],
     #v[0xF0, 0x10, 0xF0, 0x10, 0xF0],
     #v[0x90, 0x90, 0xF0, 0x10, 0x10],
     #v[0xF0, 0x80, 0xF0, 0x10, 0xF0],
     #v[0xF0, 0x80, 0xF0, 0x90, 0xF0],
     #v[0xF0, 0x10, 0x20, 0x40, 0x40]]

/-- Glyphs 8 to F of the table of 20_memory.md R63. -/
def glyphs8toF : Vector (Vector Byte 5) 8 :=
  #v[#v[0xF0, 0x90, 0xF0, 0x90, 0xF0],
     #v[0xF0, 0x90, 0xF0, 0x10, 0xF0],
     #v[0xF0, 0x90, 0xF0, 0x90, 0x90],
     #v[0xE0, 0x90, 0xE0, 0x90, 0xE0],
     #v[0xF0, 0x80, 0x80, 0x80, 0xF0],
     #v[0xE0, 0x90, 0x90, 0x90, 0xE0],
     #v[0xF0, 0x80, 0xF0, 0x80, 0xF0],
     #v[0xF0, 0x80, 0xF0, 0x80, 0x80]]

/-- The default of `P_FONT`, the table of 20_memory.md R63.
PRESUMED (the spec's own general knowledge, G1; log 10): unsafe for a claim that reads font bytes. -/
def defaultFont : Font := glyphs0to7 ++ glyphs8toF

/-- The defaults of R9: the behaviour the source documents.  The seed 0 is a DESIGN CHOICE (log 7). -/
def Params.default : Params where
  retAdvance  := true
  operandRead := .live
  shift       := .modern
  lsRange     := .exclusive
  subFlag     := .strict
  timerMode   := .perTick
  font        := defaultFont
  rngSeed     := 0

end Sys2Proof.Config
end

