-- ==== Sys2Proof/Machine/State.lean ====
section
/-! DEFINITION. The machine's state (10_state.md R30, R44), plain data, and its value after reset (70_reset_and_hazards.md
R270, R273). -/

namespace Sys2Proof.Machine

/-- Memory: the bytes that differ from what an unlisted address reads as (`resetByte`, Ops.lean), by rising address
(20_memory.md R60, R62; log 9). -/
abbrev Memory := List Host.Cell

/-- A 64 × 32 one-bit map, row by row: `FB` (R38) and `DIRTY` (R39).  The cell (px, py) is entry px of row py. -/
abbrev Bitmap := Vector (Vector Bool 64) 32

/-- The map with every cell at `b`. -/
def Bitmap.all (b : Bool) : Bitmap := Vector.replicate 32 (Vector.replicate 64 b)

/-- The fault kinds of 60_exceptions.md R230. -/
inductive FaultKind where
  | unknownOpcode
  | stackOverflow
  | invalidKey
  | fontOutOfRange
  | stackUnderflow
  | addressOutOfRange
deriving DecidableEq, Repr

/-- The result of a Tick (40_execution_cycle.md R112). -/
inductive TickResult where
  | ok
  | fault (kind : FaultKind) (info : Word)
  | halted (err : Option (FaultKind × Word))
deriving DecidableEq, Repr

/-- The host events (40_execution_cycle.md R100). -/
inductive Event where
  | tick (keys : BitVec 16)
  | pause
  | present
  | timerStrobe
  | reset (rom : List Byte)
deriving DecidableEq, Repr

/-- The state record of 10_state.md R30, after it the configuration parameters of R9 (log 1) and the model's own fields for
the host interface (log 2 to 6). -/
structure State where
  /-- MEM, 4096 bytes (R60). -/
  mem           : Memory
  /-- V0..VF (R31). -/
  regs          : Vector Byte 16
  /-- I (R34). -/
  idx           : Word
  /-- PC (R33). -/
  pc            : Word
  /-- SP + 1, the number of entries on the stack (R35; log 8). -/
  depth         : Fin 17
  /-- STACK[0..15] (R35). -/
  stack         : Vector Addr 16
  /-- DT, delayTimer (R37). -/
  dt            : Byte
  /-- ST, soundTimer (R37). -/
  st            : Byte
  /-- FB (R38). -/
  fb            : Bitmap
  /-- DIRTY (R39). -/
  dirty         : Bitmap
  /-- The halt latch (R40). -/
  halted        : Bool
  /-- The key-wait state (R41). -/
  waitingForKey : Option RegIdx
  /-- ERR (R42). -/
  err           : Option (FaultKind × Word)
  /-- RNGSTATE, in S = Nat (R43; log 7). -/
  rng           : Nat
  /-- The configuration parameters (R9); no step writes them (log 1). -/
  params        : Config.Params
  /-- The model's own: KEYS, the key levels of the present Tick, bit k for key k (R210; log 4). -/
  keys          : BitVec 16
  /-- The model's own: the events issued and not yet served, the next one first (R100; log 2). -/
  events        : List Event
  /-- The model's own: the `result` port, the result of the last Tick (R242; log 5). -/
  result        : Option TickResult
  /-- The model's own: what the last Present since Reset returned, FB and DIRTY (R244; log 6). -/
  presented     : Option (Bitmap × Bitmap)
deriving DecidableEq, Repr

/-- The machine never stops outside the spec: each of its faults is a next state with `halted` set (60_exceptions.md R231),
so no model fault exists and none is raised (log 13; safe). -/
inductive Fault where
deriving DecidableEq, Repr

/-- Why a step has no transition. -/
inductive Refusal where
  /-- An instruction that has no meaning yet.  No arm of `exec` raises it.  Safe. -/
  | notModelled (mnemonic : String)
  /-- Raised when the host issues `Reset` with more than 3584 bytes: "Reset has no step for it" (R271; log 14).  Safe. -/
  | romTooLong
  /-- Raised when the host issues `TimerStrobe` under `P_TIMER_MODE = per_tick`: "not an event of the block, and a model
  refuses it" (R240; log 14).  Safe. -/
  | timerStrobePerTick
deriving DecidableEq, Repr

/-- The outcome of an instruction or a step. -/
abbrev Result := Host.Outcome State Fault Refusal

/-- R270 with an empty ROM, under the parameters `p`: "the state is the one Reset would give with an empty ROM" (R273). -/
def State.powerOn (p : Config.Params) : State where
  mem           := []
  regs          := Vector.replicate 16 0x00
  idx           := 0x0000
  pc            := 0x0200
  depth         := 0
  stack         := Vector.replicate 16 0x000
  dt            := 0x00
  st            := 0x00
  fb            := Bitmap.all false
  dirty         := Bitmap.all false
  halted        := false
  waitingForKey := none
  err           := none
  rng           := p.rngSeed
  params        := p
  keys          := 0
  events        := []
  result        := none
  presented     := none

/-- The machine right after reset, with the default parameters of R9. -/
def State.reset : State := State.powerOn Config.Params.default

end Sys2Proof.Machine
end

