-- ==== Sys2Proof/Machine/Ops.lean ====
section
/-! DEFINITION. The named operations over memory, registers, the framebuffer and the stack, the fault entry, and how an
instruction ends. -/

namespace Sys2Proof.Machine

/-! ### Memory (20_memory.md R60–R71) -/

/-- What an unlisted address reads as: the reset contents of R62, the font at 0x000–0x04F and zero elsewhere. -/
def resetByte (font : Config.Font) (a : Nat) : Byte :=
  if h : a < 80 then (font[a / 5]'(by omega))[a % 5]'(by omega) else 0x00

/-- The byte at address `a`. -/
def Memory.read (font : Config.Font) : Memory → Nat → Byte
  | [], a => resetByte font a
  | (b, v) :: m, a => if a = b then v else Memory.read font m a

/-- Lists `v` at `a`, before the first larger address. -/
def Memory.insert (a : Nat) (v : Byte) : Memory → Memory
  | [] => [(a, v)]
  | c :: m => if a < c.1 then (a, v) :: c :: m else c :: Memory.insert a v m

/-- Memory with `v` at `a`: an address at its reset contents is not listed. -/
def Memory.write (font : Config.Font) (m : Memory) (a : Nat) (v : Byte) : Memory :=
  let others := m.filter (·.1 ≠ a)
  if v = resetByte font a then others else Memory.insert a v others

/-- Memory with `bs` at `a`, `a + 1`, …, written in ascending order (R67). -/
def Memory.writeBytes (font : Config.Font) (m : Memory) (a : Nat) : List Byte → Memory
  | [] => m
  | b :: bs => Memory.writeBytes font (Memory.write font m a b) (a + 1) bs

/-- The canonical form: addresses strictly rising and below 4096, no byte equal to the reset contents. -/
abbrev Memory.wf (font : Config.Font) (m : Memory) : Prop :=
  m.Pairwise (·.1 < ·.1) ∧ ∀ c ∈ m, c.1 < Config.memSize ∧ c.2 ≠ resetByte font c.1

/-- `MemRead(a, 1)` for an address in range (R61). -/
def State.readByte (s : State) (a : Nat) : Byte := s.mem.read s.params.font a

/-- `MemWrite` of consecutive bytes in range (R61). -/
def State.storeBytes (s : State) (a : Nat) (bs : List Byte) : State :=
  { s with mem := s.mem.writeBytes s.params.font a bs }

/-! ### Registers (10_state.md R31, R32) -/

/-- `V[r]`. -/
def State.v (s : State) (r : RegIdx) : Byte := s.regs[r.val]'r.isLt

/-- `V[r] <- b`. -/
def State.setV (s : State) (r : RegIdx) (b : Byte) : State := { s with regs := s.regs.set r.val b r.isLt }

/-- SP, −1..15 (R35). -/
def State.sp (s : State) : Int := (s.depth.val : Int) - 1

/-! ### One-bit maps (10_state.md R38, R39) -/

/-- The cell (px, py). -/
def Bitmap.pixel (m : Bitmap) (px : Fin 64) (py : Fin 32) : Bool := (m[py.val]'py.isLt)[px.val]'px.isLt

/-- The map with `b` at the cell (px, py). -/
def Bitmap.setPixel (m : Bitmap) (px : Fin 64) (py : Fin 32) (b : Bool) : Bitmap :=
  m.set py.val ((m[py.val]'py.isLt).set px.val b px.isLt) py.isLt

/-! ### Fault entry (60_exceptions.md R231, 40_execution_cycle.md R111)

There is no return from a fault (R234): only the Reset event leaves `halted`. -/

/-- `raise K(info)`: "Nothing else changes." -/
def raise (kind : FaultKind) (info : Word) (s : State) : Result :=
  .next { s with halted := true, err := some (kind, info), result := some (.fault kind info) }

/-! ### How a tick ends (40_execution_cycle.md R105–R107, 60_exceptions.md R239) -/

/-- One timer counted down: decremented if it is positive. -/
def countDown (t : Byte) : Byte := if t = 0 then 0 else t - 1

/-- `TimerDecay()` (R239). -/
def timerDecay (s : State) : State := { s with dt := countDown s.dt, st := countDown s.st }

/-- Step 5 of Tick: the decay runs in Tick only under `P_TIMER_MODE = per_tick` (R106). -/
def tickDecay (s : State) : State :=
  match s.params.timerMode with
  | .perTick => timerDecay s
  | .external => s

/-- Step 6 of Tick: the auto-advance (R107). -/
def advance (s : State) : State := { s with pc := s.pc + 2 }

/-- The tick returns `Ok` (R112). -/
def returnOk (s : State) : State := { s with result := some .ok }

/-- Ending "normal": the timers decay, PC advances by 2. -/
def endNormal (s : State) : Result := .next (returnOk (advance (tickDecay s)))

/-- Ending "pc-set": the timers decay, PC stays as the handler wrote it. -/
def endPcSet (s : State) : Result := .next (returnOk (tickDecay s))

/-- Ending "enter-wait": no decay, no advance (R213). -/
def endWait (s : State) : Result := .next (returnOk s)

/-- `skip`: the extra +2 of SE, SNE, SKP and SKNP when their condition holds (R108). -/
def skipIf (c : Bool) (s : State) : State := { s with pc := if c then s.pc + 2 else s.pc }

/-! ### Range check and fetch (20_memory.md R61, 43_index_memory.md, 40_execution_cycle.md R103) -/

/-- The first failing address of the `c` addresses from `a` on, if one is above 0xFFF: `RangeCheck(a, c)`. -/
def rangeFault (a c : Nat) : Option Nat :=
  if 0 < c ∧ 0xFFF < a + c - 1 then some (max a 0x1000) else none

/-- Runs `body` when the `c` bytes from I on are in range; else raises AddressOutOfRange before anything is written (R66). -/
def withRangeCheck (c : Nat) (s : State) (body : State → Result) : Result :=
  match rangeFault s.idx.toNat c with
  | some a => raise .addressOutOfRange (BitVec.ofNat 16 a) s
  | none => body s

/-- Step 2 of Tick: the word at PC, or the first address of the two that is out of range (R103). -/
def fetch (s : State) : Except Nat Word :=
  if 0xFFF < s.pc.toNat then .error s.pc.toNat
  else if s.pc.toNat = 0xFFF then .error 0x1000
  else .ok (wordOfBytes (s.readByte s.pc.toNat) (s.readByte (s.pc.toNat + 1)))

/-! ### The call stack (10_state.md R35, R36) -/

/-- SP <- SP + 1; STACK[SP] <- a, when SP < 15. -/
def push (s : State) (a : Addr) (h : s.depth.val < 16) : State :=
  { s with depth := ⟨s.depth.val + 1, by omega⟩, stack := s.stack.set s.depth.val a h }

/-- PC <- STACK[SP]; SP <- SP − 1, when SP ≥ 0. -/
def popToPc (s : State) (h : 0 < s.depth.val) : State :=
  { s with
    pc := (s.stack[s.depth.val - 1]'(by omega)).setWidth 16
    depth := ⟨s.depth.val - 1, by omega⟩ }

end Sys2Proof.Machine
end

