-- ==== Sys2Proof/Machine/Operands.lean ====
section
/-! DEFINITION. The operand forms: late reads under `P_OPERAND_READ`, the shift source, the registers a transfer moves, the key
operand, the glyph and decimal operands. -/

namespace Sys2Proof.Machine

/-- The state whose registers a statement reads once its handler has written: `now`, as they stand, under `live`;
`before` the handler's first write under `snapshot` (00_scope.md R16). -/
def lateRead (before now : State) : State :=
  match before.params.operandRead with
  | .live => now
  | .snapshot => before

/-- The register 8xy6 and 8xyE shift: Vx under `modern`, Vy under `legacy` (42_register_alu.md R148, R150). -/
def shiftSource (s : State) (x y : RegIdx) : RegIdx :=
  match s.params.shift with
  | .modern => x
  | .legacy => y

/-- How many registers Fx55 and Fx65 move: x under `exclusive`, x + 1 under `inclusive` (43_index_memory.md R174). -/
def transferCount (s : State) (x : RegIdx) : Nat :=
  match s.params.lsRange with
  | .exclusive => x.val
  | .inclusive => x.val + 1

/-- V0..V(c−1), in ascending order (R174). -/
def firstRegs (s : State) (c : Nat) : List Byte := s.regs.toList.take c

/-- `V[k] <- MemRead(I + k, 1)` for k in 0..c−1 (R175); the reads touch no register, so they are taken together (log 20). -/
def loadRegs (s : State) (c : Nat) : State :=
  { s with regs := Vector.ofFn fun k => if k.val < c then s.readByte (s.idx.toNat + k.val) else s.v k }

/-- `KEYS[k] = 1` (45_keypad_timers.md R210). -/
def keyDown (s : State) (k : RegIdx) : Bool := s.keys.getLsbD k.val

/-- `min { k | KEYS[k] = 1 }`, if any key is down (R213). -/
def lowestKey (s : State) : Option RegIdx := (List.finRange 16).find? (keyDown s)

/-- A key index as the byte a register receives. -/
def keyByte (k : RegIdx) : Byte := BitVec.ofNat 8 k.val

/-- The key a byte names, if it is at most 0x0F (R211). -/
def namedKey (b : Byte) : Option RegIdx := if h : b.toNat < 16 then some ⟨b.toNat, h⟩ else none

/-- The address of a hex digit's glyph, Vx × 5 (R172). -/
def glyphAddress (b : Byte) : Word := b.setWidth 16 * 5

/-- Hundreds, tens and ones of a byte (R173). -/
def bcdDigits (b : Byte) : List Byte :=
  [BitVec.ofNat 8 (b.toNat / 100), BitVec.ofNat 8 (b.toNat / 10 % 10), BitVec.ofNat 8 (b.toNat % 10)]

end Sys2Proof.Machine
end

