-- ==== Sys2Proof/Machine/ControlFlow.lean ====
section
/-! DEFINITION. Control flow (41_control_flow.md R120–R128). -/

namespace Sys2Proof.Machine

/-- R120: return from subroutine; ends normally under `P_RET_ADVANCE`, else pc-set.
On an empty stack StackUnderflow is raised (the spec's decision D6). -/
def execRet (s : State) : Result :=
  if h : 0 < s.depth.val then
    if s.params.retAdvance then endNormal (popToPc s h) else endPcSet (popToPc s h)
  else raise .stackUnderflow s.pc s

/-- R121: `PC <- zext_16(nnn)`. -/
def execJmpAddr (nnn : Addr) (s : State) : Result := endPcSet { s with pc := nnn.setWidth 16 }

/-- R122: pushes the CALL's own address and jumps; StackOverflow is raised when SP = 15. -/
def execCallAddr (nnn : Addr) (s : State) : Result :=
  if h : s.depth.val < 16 then endPcSet { push s (s.pc.setWidth 12) h with pc := nnn.setWidth 16 }
  else raise .stackOverflow s.pc s

/-- R123: skip if `V[x] = kk`. -/
def execSeImm (x : RegIdx) (kk : Byte) (s : State) : Result := endNormal (skipIf (s.v x == kk) s)

/-- R124: skip if `V[x] ≠ kk`. -/
def execSneImm (x : RegIdx) (kk : Byte) (s : State) : Result := endNormal (skipIf (s.v x != kk) s)

/-- R125: skip if `V[x] = V[y]`. -/
def execSeReg (x y : RegIdx) (s : State) : Result := endNormal (skipIf (s.v x == s.v y) s)

/-- R126: skip if `V[x] ≠ V[y]`. -/
def execSneReg (x y : RegIdx) (s : State) : Result := endNormal (skipIf (s.v x != s.v y) s)

/-- R127: `PC <- trunc16(zext_16(nnn) + zext_16(V[0]))`. -/
def execJpV0Addr (nnn : Addr) (s : State) : Result :=
  endPcSet { s with pc := nnn.setWidth 16 + (s.v 0).setWidth 16 }

end Sys2Proof.Machine
end

