-- ==== Sys2Proof/Machine/Flags.lean ====
section
/-! DEFINITION. The flag computations: VF is the one flag (10_state.md R32). -/

namespace Sys2Proof.Machine

/-- The byte of a flag: 1 or 0. -/
def flagByte (f : Bool) : Byte := if f then 0x01 else 0x00

/-- Carry of 8xy4: the exact sum exceeds 255 (42_register_alu.md R146). -/
def carry (a b : Byte) : Bool := decide (255 < a.toNat + b.toNat)

/-- `cond(a, b)` of SUB and SUBN: a > b under `strict`, a ≥ b under `ge` (R147). -/
def noBorrow (p : Config.Params) (a b : Byte) : Bool :=
  match p.subFlag with
  | .strict => decide (b.toNat < a.toNat)
  | .ge => decide (b.toNat ≤ a.toNat)

/-- The bit 8xy6 shifts out (R148). -/
def bit0 (a : Byte) : Bool := a.getLsbD 0

/-- The bit 8xyE shifts out (R150). -/
def bit7 (a : Byte) : Bool := a.getLsbD 7

/-- VF <- the flag. -/
def setFlag (s : State) (f : Bool) : State := s.setV regF (flagByte f)

/-- The two ordered writes of a flag-writing handler: VF <- f, then V[x] <- the result, computed from the registers as
`P_OPERAND_READ` shows them after the first write (R16, R147–R150). -/
def setFlagThenResult (s : State) (x : RegIdx) (f : Bool) (result : State → Byte) : State :=
  let flagged := setFlag s f
  flagged.setV x (result (lateRead s flagged))

end Sys2Proof.Machine
end

