-- ==== Sys2Proof/Machine/Display.lean ====
section
/-! DEFINITION. The display: CLS, DRW and the sprite engine (44_display.md R190–R197). -/

namespace Sys2Proof.Machine

/-- `px <- (V[x] + j) mod 64` (R193). -/
def spriteColumn (vx : Byte) (j : Nat) : Fin 64 := ⟨(vx.toNat + j) % 64, Nat.mod_lt _ (by decide)⟩

/-- `py <- (V[y] + i) mod 32` (R193). -/
def spriteLine (vy : Byte) (i : Nat) : Fin 32 := ⟨(vy.toNat + i) % 32, Nat.mod_lt _ (by decide)⟩

/-- Bit j of a sprite row, counted from the most significant (R192). -/
def spriteBit (row : Byte) (j : Nat) : Bool := row.getLsbD (7 - j)

/-- Toggles one cell: VF <- 1 if it was on, the cell flips, the cell is dirty (R191, R194). -/
def togglePixel (s : State) (px : Fin 64) (py : Fin 32) : State :=
  let on := s.fb.pixel px py
  { s with
    regs := if on then (setFlag s true).regs else s.regs
    fb := s.fb.setPixel px py (!on)
    dirty := s.dirty.setPixel px py true }

/-- Pixel j of row i.  The coordinates are read under `P_OPERAND_READ` (R191, R196); `before` is the state before the DRW. -/
def drawPixel (before : State) (x y : RegIdx) (row : Byte) (i : Nat) (s : State) (j : Nat) : State :=
  if spriteBit row j then
    togglePixel s (spriteColumn ((lateRead before s).v x) j) (spriteLine ((lateRead before s).v y) i)
  else s

/-- Row i: the byte at I + i, its pixels from the left (R192). -/
def drawRow (before : State) (x y : RegIdx) (s : State) (i : Nat) : State :=
  (List.range 8).foldl (drawPixel before x y (s.readByte (s.idx.toNat + i)) i) s

/-- The sprite: VF <- 0, then rows 0..n−1, top to bottom (R191). -/
def drawSprite (x y : RegIdx) (n : Nat) (s : State) : State :=
  (List.range n).foldl (drawRow s x y) (setFlag s false)

/-- R190: every pixel off, every cell dirty. -/
def execCls (s : State) : Result := endNormal { s with fb := Bitmap.all false, dirty := Bitmap.all true }

/-- R191: the n sprite bytes are range-checked before anything is written. -/
def execDrw (x y : RegIdx) (n : Nat) (s : State) : Result := withRangeCheck n s fun s => endNormal (drawSprite x y n s)

end Sys2Proof.Machine
end

