-- ==== Sys2Proof/Machine/IndexMemory.lean ====
section
/-! DEFINITION. The index register and memory (43_index_memory.md R170–R176). -/

namespace Sys2Proof.Machine

/-- R170: `I <- zext_16(nnn)`. -/
def execLdIAddr (nnn : Addr) (s : State) : Result := endNormal { s with idx := nnn.setWidth 16 }

/-- R171: `I <- trunc16(I + zext_16(V[x]))`; VF is not written. -/
def execAddIVx (x : RegIdx) (s : State) : Result := endNormal { s with idx := s.idx + (s.v x).setWidth 16 }

/-- R172: `I <- zext_16(V[x]) * 5`; FontOutOfRange is raised when Vx > 0x0F. -/
def execLdFVx (x : RegIdx) (s : State) : Result :=
  if 0x0F < (s.v x).toNat then raise .fontOutOfRange ((s.v x).setWidth 16) s
  else endNormal { s with idx := glyphAddress (s.v x) }

/-- R173: the three decimal digits of Vx at I, I + 1, I + 2. -/
def execLdBVx (x : RegIdx) (s : State) : Result :=
  withRangeCheck 3 s fun s => endNormal (s.storeBytes s.idx.toNat (bcdDigits (s.v x)))

/-- R174: V0..V(cnt−1) at I, I + 1, …; I is never changed. -/
def execLdIVx (x : RegIdx) (s : State) : Result :=
  withRangeCheck (transferCount s x) s fun s =>
    endNormal (s.storeBytes s.idx.toNat (firstRegs s (transferCount s x)))

/-- R175: V0..V(cnt−1) from I, I + 1, …; I is not changed. -/
def execLdVxI (x : RegIdx) (s : State) : Result :=
  withRangeCheck (transferCount s x) s fun s => endNormal (loadRegs s (transferCount s x))

end Sys2Proof.Machine
end

