-- ==== Sys2Proof/Machine/KeypadTimers.lean ====
section
/-! DEFINITION. The keypad and the timers (45_keypad_timers.md R210–R217). -/

namespace Sys2Proof.Machine

/-- R211: skip if the key Vx names is pressed; InvalidKey is raised when Vx > 0x0F. -/
def execSkp (x : RegIdx) (s : State) : Result :=
  match namedKey (s.v x) with
  | some k => endNormal (skipIf (keyDown s k) s)
  | none => raise .invalidKey ((s.v x).setWidth 16) s

/-- R212: skip if the key Vx names is not pressed; InvalidKey is raised when Vx > 0x0F. -/
def execSknp (x : RegIdx) (s : State) : Result :=
  match namedKey (s.v x) with
  | some k => endNormal (skipIf (!keyDown s k) s)
  | none => raise .invalidKey ((s.v x).setWidth 16) s

/-- R213: with a key down, `V[x]` receives the lowest and the tick ends normally; with none the core enters the key-wait.
The immediate poll is the spec's decision D9 (log 16). -/
def execLdVxK (x : RegIdx) (s : State) : Result :=
  match lowestKey s with
  | some k => endNormal (s.setV x (keyByte k))
  | none => endWait { s with waitingForKey := some x }

/-- R215: `V[x] <- DT`, before this tick's decay. -/
def execLdVxDt (x : RegIdx) (s : State) : Result := endNormal (s.setV x s.dt)

/-- R216: `DT <- V[x]`. -/
def execLdDtVx (x : RegIdx) (s : State) : Result := endNormal { s with dt := s.v x }

/-- R217: `ST <- V[x]`. -/
def execLdStVx (x : RegIdx) (s : State) : Result := endNormal { s with st := s.v x }

/-- R214: a tick of the key-wait of register r.  With a key down the wait completes, and decay and auto-advance run as for
an instruction that ends normally; with none "the tick changes no state at all", and returns Ok. -/
def keyWaitTick (r : RegIdx) (s : State) : Result :=
  match lowestKey s with
  | some k => endNormal { s.setV r (keyByte k) with waitingForKey := none }
  | none => endWait s

end Sys2Proof.Machine
end

