-- ==== Sys2Proof/Machine/RegisterAlu.lean ====
section
/-! DEFINITION. Register loads and arithmetic (42_register_alu.md R140–R153).  Every handler ends normally. -/

namespace Sys2Proof.Machine

/-- R140: `V[x] <- kk`. -/
def execLdImm (x : RegIdx) (kk : Byte) (s : State) : Result := endNormal (s.setV x kk)

/-- R141: `V[x] <- trunc8(V[x] + kk)`; VF is not modified. -/
def execAddImm (x : RegIdx) (kk : Byte) (s : State) : Result := endNormal (s.setV x (s.v x + kk))

/-- R142: `V[x] <- V[y]`. -/
def execLdReg (x y : RegIdx) (s : State) : Result := endNormal (s.setV x (s.v y))

/-- R143: `V[x] <- V[x] OR V[y]`. -/
def execOrReg (x y : RegIdx) (s : State) : Result := endNormal (s.setV x (s.v x ||| s.v y))

/-- R144: `V[x] <- V[x] AND V[y]`. -/
def execAndReg (x y : RegIdx) (s : State) : Result := endNormal (s.setV x (s.v x &&& s.v y))

/-- R145: `V[x] <- V[x] XOR V[y]`. -/
def execXorReg (x y : RegIdx) (s : State) : Result := endNormal (s.setV x (s.v x ^^^ s.v y))

/-- R146: the sum is computed before any write, then VF <- carry, then `V[x] <- trunc8(sum)`. -/
def execAddReg (x y : RegIdx) (s : State) : Result :=
  let sum := s.v x + s.v y
  endNormal (setFlagThenResult s x (carry (s.v x) (s.v y)) fun _ => sum)

/-- R147: VF <- cond(Vx, Vy), then `V[x] <- trunc8(V[x] + 256 - V[y])`. -/
def execSub (x y : RegIdx) (s : State) : Result :=
  endNormal (setFlagThenResult s x (noBorrow s.params (s.v x) (s.v y)) fun r => r.v x - r.v y)

/-- R148: VF <- bit 0 of the source, then `V[x] <- V[s] >> 1`.
Under `legacy` the flag's source Vy is the spec's general knowledge G2 (PRESUMED, log 21; unsafe). -/
def execShr (x y : RegIdx) (s : State) : Result :=
  endNormal (setFlagThenResult s x (bit0 (s.v (shiftSource s x y))) fun r => r.v (shiftSource s x y) >>> 1)

/-- R149: VF <- cond(Vy, Vx), then `V[x] <- trunc8(V[y] + 256 - V[x])`. -/
def execSubn (x y : RegIdx) (s : State) : Result :=
  endNormal (setFlagThenResult s x (noBorrow s.params (s.v y) (s.v x)) fun r => r.v y - r.v x)

/-- R150: VF <- bit 7 of the source, then `V[x] <- trunc8(V[s] << 1)`.
Under `legacy` the flag's source Vy is the spec's general knowledge G2 (PRESUMED, log 21; unsafe). -/
def execShl (x y : RegIdx) (s : State) : Result :=
  endNormal (setFlagThenResult s x (bit7 (s.v (shiftSource s x y))) fun r => r.v (shiftSource s x y) <<< 1)

/-- R151: one byte is drawn and RNGSTATE advances, whatever kk is; `V[x] <- b AND kk`. -/
def execRnd (x : RegIdx) (kk : Byte) (s : State) : Result :=
  let draw := Config.rngNext s.rng
  endNormal ({ s with rng := draw.2 }.setV x (draw.1 &&& kk))

end Sys2Proof.Machine
end

