-- ==== Sys2Proof/Machine/Tick.lean ====
section
/-! DEFINITION. Tick and the other host events (40_execution_cycle.md R100–R114, 60_exceptions.md R235, R240, R244,
70_reset_and_hazards.md R270, R271). -/

namespace Sys2Proof.Machine

/-- R114, once KEYS holds the levels of this tick: halted, key-wait, fetch, decode, execute, in the order of R233. -/
def tick (s : State) : Result :=
  if s.halted then .next { s with result := some (.halted s.err) }
  else
    match s.waitingForKey with
    | some r => keyWaitTick r s
    | none =>
      match fetch s with
      | .error a => raise .addressOutOfRange (BitVec.ofNat 16 a) s
      | .ok w =>
        match decodeWord w with
        | .error _ => raise .unknownOpcode w s
        | .ok i => exec i s

/-- R235: Pause sets `halted` and leaves ERR unchanged. -/
def pause (s : State) : Result := .next { s with halted := true }

/-- R244: Present returns a copy of FB and DIRTY and clears the whole mask. -/
def present (s : State) : Result := .next { s with presented := some (s.fb, s.dirty), dirty := Bitmap.all false }

/-- R240: TimerStrobe decays the timers when the core is not halted; under `per_tick` it is refused. -/
def timerStrobe (s : State) : Result :=
  match s.params.timerMode with
  | .external => .next (if s.halted then s else timerDecay s)
  | .perTick => .refused .timerStrobePerTick

/-- R270, R271: every field of R30 at its reset value, the ROM at 0x200; a ROM of more than 3584 bytes is refused.
The ports `keys` and `result` and the queue are not state of R30 and stay (log 5). -/
def resetEvent (rom : List Byte) (s : State) : Result :=
  if rom.length ≤ Config.romMax then
    .next { (State.powerOn s.params).storeBytes Config.programBase rom with
      keys := s.keys, events := s.events, result := s.result }
  else .refused .romTooLong

/-- Serves one event of R100; `s` no longer holds it in its queue. -/
def serve (e : Event) (s : State) : Result :=
  match e with
  | .tick keys => tick { s with keys := keys }
  | .pause => pause s
  | .present => present s
  | .timerStrobe => timerStrobe s
  | .reset rom => resetEvent rom s

/-- Serves the next event of the queue.  With an empty queue the event is a Tick at the key levels the port holds
(DESIGN CHOICE, log 3). -/
def serveNext (s : State) : Result :=
  match s.events with
  | [] => tick s
  | e :: rest => serve e { s with events := rest }

end Sys2Proof.Machine
end

