-- ==== Sys2Proof/Machine/Step.lean ====
section
/-! DEFINITION. One step, and how an instruction word is placed where the next step fetches. -/

namespace Sys2Proof.Machine

/-- One host event, served to its end (40_execution_cycle.md R100). -/
def step (s : State) : Host.Outcome State Fault Refusal := serveNext s

/-- `s` with a table word stored where the next step fetches its instruction, big-endian (R65), and with what that fetch
needs: the machine neither halted nor waiting, no other event queued, PC at the reset PC if no word fits at it (log 19). -/
def State.withFetchWord (s : State) (nbits w : Nat) : State :=
  let pc : Word := if s.pc.toNat < 0xFFF then s.pc else 0x0200
  { s.storeBytes pc.toNat [highByte (tableWord nbits w), lowByte (tableWord nbits w)] with
    pc := pc, halted := false, waitingForKey := none, events := [] }

end Sys2Proof.Machine
end

