-- ==== Sys2Proof/Machine/Ports.lean ====
section
/-! DEFINITION. The output ports of 60_exceptions.md R242, as functions of the state, and the numeric codes of R230. -/

namespace Sys2Proof.Machine

/-- The code of a fault kind, 3 bits (R230; the numbers are the spec's decision D13). -/
def FaultKind.code : FaultKind → BitVec 3
  | .unknownOpcode => 1
  | .stackOverflow => 2
  | .invalidKey => 3
  | .fontOutOfRange => 4
  | .stackUnderflow => 5
  | .addressOutOfRange => 6

/-- R242 `err_code`: "Code 0 in the error register means 'none'" (R230). -/
def errCode (s : State) : BitVec 3 :=
  match s.err with
  | none => 0
  | some (kind, _) => kind.code

/-- R242 `err_info`: 0 when ERR is none (DESIGN CHOICE, log 22: the spec gives none a code and no information). -/
def errInfo (s : State) : Word :=
  match s.err with
  | none => 0
  | some (_, info) => info

/-- R242 `waiting`: `waitingForKey ≠ none`. -/
def waiting (s : State) : Bool := s.waitingForKey.isSome

/-- The output ports of R242 that are read off the state; `result` is the field of that name. -/
structure Ports where
  result  : Option TickResult
  fb      : Bitmap
  dirty   : Bitmap
  st      : Byte
  halted  : Bool
  errCode : BitVec 3
  errInfo : Word
  waiting : Bool
deriving DecidableEq, Repr

/-- What the host reads between events (R242). -/
def ports (s : State) : Ports where
  result  := s.result
  fb      := s.fb
  dirty   := s.dirty
  st      := s.st
  halted  := s.halted
  errCode := errCode s
  errInfo := errInfo s
  waiting := waiting s

end Sys2Proof.Machine
end

