-- ==== Sys2Proof/Safety.lean ====
section
/-! DEFINITION. What claims are stated in: how a tick may end, what an instruction may write, when it raises, the invariants of
the machine, and the sprite engine said as functions of coordinates. -/

namespace Sys2Proof.Machine

/-! ### How a tick starts and ends -/

/-- A timer after the decay of one tick: "max(v − 1, 0)" under `per_tick`, unchanged under `external` (70_reset_and_hazards.md
R276, 60_exceptions.md R240). -/
def timerAfterTick (m : Config.TimerMode) (t : Byte) : Byte :=
  match m with
  | .perTick => BitVec.ofNat 8 (t.toNat - 1)
  | .external => t

/-- `s` after a tick whose handler left it so and PC at `pc`: the timers decayed, the result Ok, nothing else changed. -/
def completedAt (pc : Word) (s : State) : State :=
  { s with
    pc := pc
    dt := timerAfterTick s.params.timerMode s.dt
    st := timerAfterTick s.params.timerMode s.st
    result := some .ok }

/-- As `completedAt`, for a handler that ended normally: PC past the instruction. -/
def completed (s : State) : State := completedAt (s.pc + 2) s

/-- `s` after a fault: halted, ERR and the result name it, nothing else changed (R231). -/
def faulted (kind : FaultKind) (info : Word) (s : State) : State :=
  { s with halted := true, err := some (kind, info), result := some (.fault kind info) }

/-- The next event of `s` is a Tick, and `t` is `s` with its keys in KEYS and the event served (R100, R114): the first event of
the queue, or with an empty queue a Tick at the levels on the port (log 3). -/
def TickStarts (s t : State) : Prop :=
  (s.events = [] ∧ t = s) ∨ ∃ keys rest, s.events = .tick keys :: rest ∧ t = { s with keys := keys, events := rest }

/-- The word of the two bytes at PC: `MEM[PC] * 256 + MEM[PC + 1]` (20_memory.md R65). -/
def wordAtPc (s : State) : Word :=
  BitVec.ofNat 16 ((s.readByte s.pc.toNat).toNat * 256 + (s.readByte (s.pc.toNat + 1)).toNat)

/-- `k` is the numerically lowest key down in `keys` (45_keypad_timers.md R213). -/
def IsLowestKey (keys : BitVec 16) (k : RegIdx) : Prop :=
  keys.getLsbD k.val = true ∧ ∀ j : RegIdx, j < k → keys.getLsbD j.val = false

/-- A run ends at the first state with `halted = 1` (40_execution_cycle.md R115). -/
def Stopped (s : State) : Prop := s.halted = true

end Sys2Proof.Machine

namespace Sys2Proof

open Machine

/-! ### What an instruction reads and writes -/

/-- The registers an instruction may write: its destination, and VF for a flag writer (10_state.md R32). -/
def Instr.mayWriteV (i : Instr) (s : State) (r : RegIdx) : Prop :=
  match i with
  | .ldImm x _ | .addImm x _ | .ldReg x _ | .orReg x _ | .andReg x _ | .xorReg x _ | .rnd x _ | .ldVxDt x | .ldVxK x => r = x
  | .addReg x _ | .sub x _ | .shr x _ | .subn x _ | .shl x _ => r = x ∨ r = regF
  | .drw _ _ _ => r = regF
  | .ldVxI x => r.val < transferCount s x
  | .cls | .ret | .jmpAddr _ | .callAddr _ | .seImm _ _ | .sneImm _ _ | .seReg _ _ | .sneReg _ _ | .ldIAddr _ | .jpV0Addr _
  | .skp _ | .sknp _ | .ldDtVx _ | .ldStVx _ | .addIVx _ | .ldFVx _ | .ldBVx _ | .ldIVx _ => False

/-- The addresses an instruction may store to: I..I+2 for Fx33, I..I+cnt−1 for Fx55 (20_memory.md R60, R67). -/
def Instr.mayStore (i : Instr) (s : State) (a : Nat) : Prop :=
  match i with
  | .ldBVx _ => s.idx.toNat ≤ a ∧ a < s.idx.toNat + 3
  | .ldIVx x => s.idx.toNat ≤ a ∧ a < s.idx.toNat + transferCount s x
  | _ => False

/-- The writers of I (10_state.md R34). -/
def Instr.writesI (i : Instr) : Prop :=
  match i with
  | .ldIAddr _ | .addIVx _ | .ldFVx _ => True
  | _ => False

/-- The writers of SP and STACK (10_state.md R35): "Only CALL pushes, and only RET pops". -/
def Instr.writesStack (i : Instr) : Prop :=
  match i with
  | .callAddr _ | .ret => True
  | _ => False

/-- The writers of FB and DIRTY (10_state.md R38, R39): CLS and DRW. -/
def Instr.draws (i : Instr) : Prop :=
  match i with
  | .cls | .drw _ _ _ => True
  | _ => False

/-- The one instruction that draws a random byte (10_state.md R43). -/
def Instr.drawsByte (i : Instr) : Prop :=
  match i with
  | .rnd _ _ => True
  | _ => False

/-- The instructions that ask for a key (45_keypad_timers.md R210): SKP, SKNP and Fx0A. -/
def Instr.readsKeys (i : Instr) : Prop :=
  match i with
  | .skp _ | .sknp _ | .ldVxK _ => True
  | _ => False

end Sys2Proof

namespace Sys2Proof.Machine

/-! ### When an instruction raises (60_exceptions.md R230, R233) -/

/-- The `c` bytes from I on reach above 0xFFF, and `a` is the first failing address (20_memory.md R61). -/
def OutOfRange (s : State) (c : Nat) (a : Word) : Prop :=
  0 < c ∧ 0x1000 < s.idx.toNat + c ∧ a.toNat = max s.idx.toNat 0x1000

/-- Instruction `i` in state `s` raises `kind` with `info`. -/
def Raises (i : Instr) (s : State) (kind : FaultKind) (info : Word) : Prop :=
  match i with
  | .callAddr _ => s.depth.val = 16 ∧ kind = .stackOverflow ∧ info = s.pc
  | .ret => s.depth.val = 0 ∧ kind = .stackUnderflow ∧ info = s.pc
  | .skp x | .sknp x => 0x0F < (s.v x).toNat ∧ kind = .invalidKey ∧ info.toNat = (s.v x).toNat
  | .ldFVx x => 0x0F < (s.v x).toNat ∧ kind = .fontOutOfRange ∧ info.toNat = (s.v x).toNat
  | .drw _ _ n => OutOfRange s n info ∧ kind = .addressOutOfRange
  | .ldBVx _ => OutOfRange s 3 info ∧ kind = .addressOutOfRange
  | .ldIVx x | .ldVxI x => OutOfRange s (transferCount s x) info ∧ kind = .addressOutOfRange
  | .cls | .jmpAddr _ | .seImm _ _ | .sneImm _ _ | .seReg _ _ | .ldImm _ _ | .addImm _ _ | .ldReg _ _ | .orReg _ _ | .andReg _ _
  | .xorReg _ _ | .addReg _ _ | .sub _ _ | .shr _ _ | .subn _ _ | .shl _ _ | .sneReg _ _ | .ldIAddr _ | .jpV0Addr _ | .rnd _ _
  | .ldVxDt _ | .ldVxK _ | .ldDtVx _ | .ldStVx _ | .addIVx _ => False

/-! ### Stores and arithmetic, said on numbers -/

/-- The no-borrow flag of `a − b` as a number: `cond(a, b)` under `P_SUB_FLAG` (42_register_alu.md R147). -/
def borrowFlag (p : Config.Params) (a b : Nat) : Nat :=
  if b < a ∨ (p.subFlag = .ge ∧ b = a) then 1 else 0

/-- How many registers Fx55 and Fx65 move: x, or x + 1 under `inclusive` (43_index_memory.md R174). -/
def movedCount (s : State) (x : RegIdx) : Nat := x.val + if s.params.lsRange = .inclusive then 1 else 0

/-- The byte at `a` once instruction `i` has completed in state `s`: a digit of Fx33, a register of Fx55, else the byte of before
(43_index_memory.md R173, R174; 20_memory.md R67). -/
def byteAfter (i : Instr) (s : State) (a : Nat) : Byte :=
  match i with
  | .ldBVx x =>
    if a = s.idx.toNat then BitVec.ofNat 8 ((s.v x).toNat / 100)
    else if a = s.idx.toNat + 1 then BitVec.ofNat 8 ((s.v x).toNat / 10 % 10)
    else if a = s.idx.toNat + 2 then BitVec.ofNat 8 ((s.v x).toNat % 10)
    else s.readByte a
  | .ldIVx x =>
    if s.idx.toNat ≤ a ∧ a < s.idx.toNat + movedCount s x then s.v (Fin.ofNat 16 (a - s.idx.toNat)) else s.readByte a
  | _ => s.readByte a

/-- The word of the two bytes at `a` once `i` has completed in `s`, big-endian (20_memory.md R65). -/
def wordAfter (i : Instr) (s : State) (a : Nat) : Word :=
  BitVec.ofNat 16 ((byteAfter i s a).toNat * 256 + (byteAfter i s (a + 1)).toNat)

/-- No register operand is VF, or operands are read before the first write: the two cases in which `P_OPERAND_READ` does not
show (00_scope.md R16). -/
def ReadsAreEarly (s : State) (q r : RegIdx) : Prop := s.params.operandRead = .snapshot ∨ (q ≠ regF ∧ r ≠ regF)

/-- `t` is `s` but for its registers, of which only Vx and VF may differ. -/
def OnlyXAndFlagDiffer (s t : State) (x : RegIdx) : Prop :=
  t = { s with regs := t.regs } ∧ ∀ r, r ≠ x → r ≠ regF → t.v r = s.v r

/-! ### The sprite engine (44_display.md R191–R197) -/

/-- A set bit of the n-row sprite at I, drawn at (vx, vy), lands on (px, py). -/
def SpriteCovers (s : State) (vx vy n : Nat) (px : Fin 64) (py : Fin 32) : Prop :=
  ∃ i j, i < n ∧ j < 8 ∧ (s.readByte (s.idx.toNat + i)).getLsbD (7 - j) = true ∧
    (vx + j) % 64 = px.val ∧ (vy + i) % 32 = py.val

/-- `t` is `s` but for VF, FB and DIRTY. -/
def OnlyFlagAndScreenDiffer (s t : State) : Prop :=
  t = { s with regs := t.regs, fb := t.fb, dirty := t.dirty } ∧ ∀ r, r ≠ regF → t.v r = s.v r

/-- FB, DIRTY and the collision flag of a draw, as functions of coordinates. -/
structure Canvas where
  hit   : Bool
  on    : Fin 64 → Fin 32 → Bool
  dirty : Fin 64 → Fin 32 → Bool

/-- The body of R191's inner loop for a set bit landing on (px, py). -/
def Canvas.toggle (c : Canvas) (px : Fin 64) (py : Fin 32) : Canvas where
  hit   := c.hit || c.on px py
  on    := fun qx qy => if qx = px ∧ qy = py then !c.on qx qy else c.on qx qy
  dirty := fun qx qy => (qx = px ∧ qy = py) || c.dirty qx qy

/-- A coordinate register as R191 reads it at one pixel: under `live`, VF shows the collisions so far (R196). -/
def Canvas.coordinate (s : State) (c : Canvas) (r : RegIdx) : Nat :=
  if s.params.operandRead = .live ∧ r = regF then (if c.hit then 1 else 0) else (s.v r).toNat

/-- Pixel k of the draw, counted row by row from the top, in a row from the left: row k / 8, bit k mod 8 (R192). -/
def Canvas.draw (s : State) (x y : RegIdx) (c : Canvas) (k : Nat) : Canvas :=
  if (s.readByte (s.idx.toNat + k / 8)).getLsbD (7 - k % 8) then
    c.toggle ⟨(c.coordinate s x + k % 8) % 64, Nat.mod_lt _ (by decide)⟩
      ⟨(c.coordinate s y + k / 8) % 32, Nat.mod_lt _ (by decide)⟩
  else c

/-- R191's loop from the state before the instruction: no collision yet, then the 8·n pixels in order. -/
def Canvas.sprite (s : State) (x y : RegIdx) (n : Nat) : Canvas :=
  (List.range (8 * n)).foldl (Canvas.draw s x y) ⟨false, s.fb.pixel, s.dirty.pixel⟩

/-! ### Invariants -/

/-- Memory keeps its canonical form (log 9). -/
def MemoryCanonical (s : State) : Prop := Memory.wf s.params.font s.mem

/-- PC's "largest value is 0x10FE after Bnnn" (10_state.md R33). -/
def PcBounded (s : State) : Prop := s.pc.toNat ≤ 0x10FE

/-- "After enter-wait, PC still holds the address of this Fx0A" (45_keypad_timers.md R213): a core that waits for the register r
has PC at two bytes in memory that decode to Fx0A with x = r. -/
def WaitsAtItsKeyLoad (s : State) : Prop :=
  ∀ r, s.waitingForKey = some r → s.pc.toNat ≤ 0xFFE ∧ decodeWord (wordAtPc s) = .ok (.ldVxK r)

/-- Every entry on the stack "is ≤ 0xFFE" (10_state.md R36). -/
def StackFetchable (s : State) : Prop := ∀ k (h : k < 16), k < s.depth.val → (s.stack[k]'h).toNat ≤ 0xFFE

/-- ERR is written only together with `halted`, and only Reset clears either (10_state.md R40, R42). -/
def ErrImpliesHalted (s : State) : Prop := s.err ≠ none → s.halted = true

/-- The framebuffer the host last saw: the copy of the last Present, or all off when there was none since Reset (log 6). -/
def lastSeen (s : State) : Bitmap :=
  match s.presented with
  | some (fb, _) => fb
  | none => Bitmap.all false

/-- "A cell whose FB value differs from its value at the previous Present has DIRTY = 1" (60_exceptions.md R244). -/
def DirtyCoversChanges (s : State) : Prop :=
  ∀ px py, s.fb.pixel px py ≠ (lastSeen s).pixel px py → s.dirty.pixel px py = true

/-- The invariants together: every state a run reaches satisfies them. -/
structure Inv (s : State) : Prop where
  memory : MemoryCanonical s
  pc     : PcBounded s
  wait   : WaitsAtItsKeyLoad s
  stack  : StackFetchable s
  err    : ErrImpliesHalted s
  dirty  : DirtyCoversChanges s

end Sys2Proof.Machine
end

