-- ==== Sys2Proof/Certificates/Slice0/Obligations.lean ====
section
/-! DEFINITION. The statements for the provers, from the numbered rules of `spec/`.  A statement that rests on a decision the spec
marks as its own names it (D<n> of 92_eei_decisions.md); one that rests on a choice of the model names the log entry.  A statement
with `TickStarts` speaks of every Tick: one the host has queued (log 2) and, with an empty queue, the model's own (log 3). -/

open Sys2Proof
open Sys2Proof.Machine

/-! ### Encoding -/

/-- 30_encoding.md R81, R83, R86, R87: no bit of an encoding is dropped.  The masks are the spec's decision D1. -/
def Obligations.DecodeOfEncodeGivesInstruction : Prop :=
  ∀ i : Instr, i.wf = true → decodeWord (encode i) = .ok i

/-- R86, R87: each word has one meaning: an instruction is decoded only from its own word.  The masks are D1. -/
def Obligations.EncodeOfDecodeGivesWord : Prop :=
  ∀ (w : Word) (i : Instr), decodeWord w = .ok i → encode i = w ∧ i.wf = true

/-- R88: "No word matches two rows of rule R86", and there are 34 rows (R85).  An inference of the spec from D1's masks. -/
def Obligations.NoWordFitsTwoRows : Prop :=
  instructionTable.length = 34 ∧
    ∀ (w : Word) (j k : Nat) (r q : Row), instructionTable[j]? = some r → instructionTable[k]? = some q →
      r.fits w = true → q.fits w = true → j = k

/-- R89: the illegal words, by top nibble.  Which words these are rests on D1. -/
def Obligations.UndecodableWordsAreTheIllegalOnes : Prop :=
  ∀ w : Word, decodeWord w = .error (.unknownOpcode w) ↔
    let top := w.toNat / 0x1000
    let low := w.toNat % 0x10
    let byte := w.toNat % 0x100
    (top = 0x0 ∧ w.toNat ≠ 0x00E0 ∧ w.toNat ≠ 0x00EE) ∨
    (top = 0x5 ∧ low ≠ 0) ∨
    (top = 0x8 ∧ low ∈ [0x8, 0x9, 0xA, 0xB, 0xC, 0xD, 0xF]) ∨
    (top = 0x9 ∧ low ≠ 0) ∨
    (top = 0xE ∧ byte ∉ [0x9E, 0xA1]) ∨
    (top = 0xF ∧ byte ∉ [0x07, 0x0A, 0x15, 0x18, 0x1E, 0x29, 0x33, 0x55, 0x65])

/-- Words written out from R86's patterns decode to the instructions they stand for; 0123 and 5121 do not (R85, D1). -/
def Obligations.WrittenOutWordsDecode : Prop :=
  decodeWord 0x00EE = .ok .ret ∧ decodeWord 0x2A4C = .ok (.callAddr 0xA4C) ∧ decodeWord 0x3A42 = .ok (.seImm 0xA 0x42) ∧
    decodeWord 0x8B57 = .ok (.subn 0xB 0x5) ∧ decodeWord 0xD3C9 = .ok (.drw 0x3 0xC 9) ∧ decodeWord 0xE6A1 = .ok (.sknp 0x6) ∧
    decodeWord 0xF765 = .ok (.ldVxI 0x7) ∧ decodeWord 0x0123 = .error (.unknownOpcode 0x0123) ∧
    decodeWord 0x5121 = .error (.unknownOpcode 0x5121)

/-! ### Tick -/

/-- 40_execution_cycle.md R105, R114, 20_memory.md R65: a Tick of a machine that is neither halted nor waiting runs the
instruction that the two bytes at PC decode to, big-endian; `TickStarts` says what the step adds around it: KEYS is written and
the event leaves the queue (log 2; with an empty queue the event is a Tick, log 3). -/
def Obligations.StepRunsTheDecodedInstruction : Prop :=
  ∀ (s t : State) (i : Instr), TickStarts s t → s.halted = false → s.waitingForKey = none → s.pc.toNat ≤ 0xFFE →
    decodeWord (wordAtPc t) = .ok i → step s = exec i t

/-- R104, R111: a word that no row matches halts the machine with UnknownOpcode(word); nothing else changes (precise by D5).
`TickStarts`: log 2, log 3. -/
def Obligations.UndecodableWordHalts : Prop :=
  ∀ s t : State, TickStarts s t → s.halted = false → s.waitingForKey = none → s.pc.toNat ≤ 0xFFE →
    (∀ r ∈ instructionTable, r.fits (wordAtPc t) = false) → step s = .next (faulted .unknownOpcode (wordAtPc t) t)

/-- R103 (the spec's decision D4): a fetch that needs an address above 0xFFF raises AddressOutOfRange of the first such address.
`TickStarts`: log 2, log 3. -/
def Obligations.FetchAboveMemoryHalts : Prop :=
  ∀ (s t : State) (a : Word), TickStarts s t → s.halted = false → s.waitingForKey = none → 0xFFF ≤ s.pc.toNat →
    a.toNat = max s.pc.toNat 0x1000 → step s = .next (faulted .addressOutOfRange a t)

/-- R101, R112, 60_exceptions.md R236: a Tick of a halted machine writes no state and returns Halted(ERR) (the result is D12).
`TickStarts`: log 2, log 3. -/
def Obligations.HaltedTickWritesNothing : Prop :=
  ∀ s t : State, TickStarts s t → s.halted = true → step s = .next { t with result := some (.halted s.err) }

/-- 45_keypad_timers.md R214 (the spec's decision D9): a key-wait tick with a key down writes the lowest into the register the
wait names, clears the wait, decays the timers and advances PC; with no key down it changes no state and returns Ok.
`TickStarts`: log 2, log 3. -/
def Obligations.KeyWaitTickCompletesOrChangesNothing : Prop :=
  ∀ (s t : State) (r : RegIdx), TickStarts s t → s.halted = false → s.waitingForKey = some r →
    (∀ k, IsLowestKey t.keys k →
      step s = .next (completed { t.setV r (BitVec.ofNat 8 k.val) with waitingForKey := none })) ∧
    (t.keys = 0 → step s = .next { t with result := some .ok })

/-! ### The other host events (the queue is the model's, log 2; the events are the spec's decision D27) -/

/-- 60_exceptions.md R235 (the spec's decision D22): Pause sets `halted` and leaves ERR and everything else as it was. -/
def Obligations.PauseLatchesHalted : Prop :=
  ∀ (s : State) (rest : List Event), s.events = .pause :: rest →
    step s = .next { s with halted := true, events := rest }

/-- R244 (D23): Present returns FB and DIRTY (kept in `presented`, log 6) and clears every DIRTY cell; nothing else changes. -/
def Obligations.PresentCopiesAndClearsDirty : Prop :=
  ∀ (s : State) (rest : List Event), s.events = .present :: rest →
    ∃ t, step s = .next t ∧ t = { s with events := rest, presented := some (s.fb, s.dirty), dirty := t.dirty } ∧
      ∀ px py, t.dirty.pixel px py = false

/-- R240 (the parameter D14): under `external`, TimerStrobe decrements each positive timer unless the machine is halted. -/
def Obligations.TimerStrobeCountsDownUnlessHalted : Prop :=
  ∀ (s : State) (rest : List Event), s.events = .timerStrobe :: rest → s.params.timerMode = .external →
    ∃ t, step s = .next t ∧ t = { s with events := rest, dt := t.dt, st := t.st } ∧
      t.dt.toNat = (if s.halted then s.dt.toNat else s.dt.toNat - 1) ∧
      t.st.toNat = (if s.halted then s.st.toNat else s.st.toNat - 1)

/-- R240, 70_reset_and_hazards.md R271 (D24): the steps without a transition are exactly a TimerStrobe under `per_tick` and a
Reset with more than 3584 bytes.  No instruction, and no other event, is refused. -/
def Obligations.OnlyForbiddenEventsAreRefused : Prop :=
  ∀ (s : State) (r : Refusal), step s = .refused r ↔
    (∃ rest, s.events = .timerStrobe :: rest ∧ s.params.timerMode = .perTick ∧ r = .timerStrobePerTick) ∨
    (∃ rom rest, s.events = .reset rom :: rest ∧ 3584 < rom.length ∧ r = .romTooLong)

/-- R270, 20_memory.md R62: Reset(rom) leaves memory zero with the font at 0x000–0x04F and the ROM from 0x200, and every other
field of R30 at the value written out here (those the source does not give are the spec's decision D7; SP is held as
`depth` = SP + 1, log 8; S = Nat, log 7).  The model's own choices: the parameters stay (log 1), the rest of the queue stays
(log 2), the key port keeps its levels (log 4), the result port keeps its value (log 5), `presented` becomes none (log 6). -/
def Obligations.ResetEventSetsEveryField : Prop :=
  ∀ (s : State) (rom : List Byte) (rest : List Event), s.events = .reset rom :: rest → rom.length ≤ 3584 →
    ∃ t, step s = .next t ∧
      t = { mem := t.mem, regs := t.regs, idx := 0x0000, pc := 0x0200, depth := 0, stack := t.stack, dt := 0x00, st := 0x00,
            fb := t.fb, dirty := t.dirty, halted := false, waitingForKey := none, err := none, rng := s.params.rngSeed,
            params := s.params, keys := s.keys, events := rest, result := s.result, presented := none } ∧
      t.sp = -1 ∧ (∀ r, t.v r = 0x00) ∧ (∀ (k : Nat) (h : k < 16), t.stack[k]'h = 0x000) ∧
      (∀ px py, t.fb.pixel px py = false ∧ t.dirty.pixel px py = false) ∧
      ∀ a : Nat, t.readByte a =
        if 0x200 ≤ a ∧ a < 0x200 + rom.length then rom.getD (a - 0x200) 0x00
        else if h : a < 80 then (s.params.font[a / 5]'(by omega))[a % 5]'(by omega) else 0x00

/-- R30, R270, R273: the values of the fields of R30 before the first Reset, with an empty ROM and the default parameters.  PC,
SP and memory are the source's; the others are the spec's decision D7, and the RNG seed 0 is the model's (log 7). -/
def Obligations.ResetStateHoldsTheSpecsValues : Prop :=
  State.reset.pc = 0x200 ∧ State.reset.sp = -1 ∧ State.reset.idx = 0 ∧ State.reset.dt = 0 ∧ State.reset.st = 0 ∧
    State.reset.halted = false ∧ State.reset.waitingForKey = none ∧ State.reset.err = none ∧
    State.reset.rng = State.reset.params.rngSeed ∧ State.reset.params = Config.Params.default ∧
    (∀ r, State.reset.v r = 0) ∧ (∀ (k : Nat) (h : k < 16), State.reset.stack[k]'h = 0) ∧
    (∀ px py, State.reset.fb.pixel px py = false ∧ State.reset.dirty.pixel px py = false) ∧
    ∀ a, 0x50 ≤ a → State.reset.readByte a = 0

/-! ### Registers and ALU -/

/-- 42_register_alu.md R140–R145: the new value of Vx; PC + 2, the timers decay, VF and everything else keep their value. -/
def Obligations.LoadsAndLogicWriteVxAlone : Prop :=
  ∀ (s : State) (x y : RegIdx) (kk : Byte),
    exec (.ldImm x kk) s = .next (completed (s.setV x kk)) ∧
    exec (.addImm x kk) s = .next (completed (s.setV x (BitVec.ofNat 8 ((s.v x).toNat + kk.toNat)))) ∧
    exec (.ldReg x y) s = .next (completed (s.setV x (s.v y))) ∧
    exec (.orReg x y) s = .next (completed (s.setV x (s.v x ||| s.v y))) ∧
    exec (.andReg x y) s = .next (completed (s.setV x (s.v x &&& s.v y))) ∧
    exec (.xorReg x y) s = .next (completed (s.setV x (s.v x ^^^ s.v y)))

/-- R146: Vx is the sum modulo 256; VF is the carry unless x is F. -/
def Obligations.AddRegWritesSumAndCarry : Prop :=
  ∀ (s : State) (x y : RegIdx), ∃ t, exec (.addReg x y) s = .next (completed t) ∧ OnlyXAndFlagDiffer s t x ∧
    (t.v x).toNat = ((s.v x).toNat + (s.v y).toNat) % 256 ∧
    (x ≠ regF → (t.v regF).toNat = if 255 < (s.v x).toNat + (s.v y).toNat then 1 else 0)

/-- R147, R153: SUB under both values of P_OPERAND_READ and P_SUB_FLAG.  f is the flag; when x is F the result replaces it. -/
def Obligations.SubWritesDifferenceAndNoBorrow : Prop :=
  ∀ (s : State) (x y : RegIdx), ∃ t, exec (.sub x y) s = .next (completed t) ∧ OnlyXAndFlagDiffer s t x ∧
    let a := (s.v x).toNat
    let b := (s.v y).toNat
    let f := borrowFlag s.params a b
    (x ≠ regF → (t.v regF).toNat = f) ∧
    (ReadsAreEarly s x y → (t.v x).toNat = (a + 256 - b) % 256) ∧
    (s.params.operandRead = .live → x = regF → y ≠ regF → (t.v x).toNat = (f + 256 - b) % 256) ∧
    (s.params.operandRead = .live → x ≠ regF → y = regF → (t.v x).toNat = (a + 256 - f) % 256) ∧
    (x = regF → y = regF → (t.v x).toNat = 0)

/-- R149, R153: SUBN under both values of P_OPERAND_READ and P_SUB_FLAG. -/
def Obligations.SubnWritesDifferenceAndNoBorrow : Prop :=
  ∀ (s : State) (x y : RegIdx), ∃ t, exec (.subn x y) s = .next (completed t) ∧ OnlyXAndFlagDiffer s t x ∧
    let a := (s.v x).toNat
    let b := (s.v y).toNat
    let f := borrowFlag s.params b a
    (x ≠ regF → (t.v regF).toNat = f) ∧
    (ReadsAreEarly s x y → (t.v x).toNat = (b + 256 - a) % 256) ∧
    (s.params.operandRead = .live → x = regF → y ≠ regF → (t.v x).toNat = (b + 256 - f) % 256) ∧
    (s.params.operandRead = .live → x ≠ regF → y = regF → (t.v x).toNat = (f + 256 - a) % 256) ∧
    (x = regF → y = regF → (t.v x).toNat = 0)

/-- R148, R153: SHR.  The source is Vx under `modern`, Vy under `legacy`; that VF is the source's bit under `legacy` is the
spec's general knowledge G2 (log 21). -/
def Obligations.ShrHalvesAndKeepsBitZero : Prop :=
  ∀ (s : State) (x y : RegIdx), ∃ t, exec (.shr x y) s = .next (completed t) ∧ OnlyXAndFlagDiffer s t x ∧
    let q := if s.params.shift = .legacy then y else x
    let a := (s.v q).toNat
    (x ≠ regF → (t.v regF).toNat = a % 2) ∧
    (ReadsAreEarly s q q → (t.v x).toNat = a / 2) ∧
    (s.params.operandRead = .live → q = regF → (t.v x).toNat = 0)

/-- R150, R153: SHL, with the source as in SHR (G2, log 21). -/
def Obligations.ShlDoublesAndKeepsBitSeven : Prop :=
  ∀ (s : State) (x y : RegIdx), ∃ t, exec (.shl x y) s = .next (completed t) ∧ OnlyXAndFlagDiffer s t x ∧
    let q := if s.params.shift = .legacy then y else x
    let a := (s.v q).toNat
    (x ≠ regF → (t.v regF).toNat = a / 128) ∧
    (ReadsAreEarly s q q → (t.v x).toNat = 2 * a % 256) ∧
    (s.params.operandRead = .live → q = regF → (t.v x).toNat = 2 * (a / 128))

/-- R151 (one draw even when kk = 0 is the spec's decision D11): Vx is the drawn byte masked by kk, RNGSTATE advances once.
The byte and the next state are free values (`Config.rngNext`, log 7); S = Nat is the model's. -/
def Obligations.RndMasksOneDrawnByte : Prop :=
  ∀ (s : State) (x : RegIdx) (kk : Byte),
    exec (.rnd x kk) s =
      .next (completed { s.setV x ((Config.rngNext s.rng).1 &&& kk) with rng := (Config.rngNext s.rng).2 })

/-! ### Control flow -/

/-- 41_control_flow.md R121: PC is nnn; a jump to 0xFFF makes the next fetch raise AddressOutOfRange(0x1000)
(R103, the spec's decision D4). -/
def Obligations.JmpSetsPc : Prop :=
  ∀ (s : State) (nnn : Addr),
    exec (.jmpAddr nnn) s = .next (completedAt (BitVec.ofNat 16 nnn.toNat) s) ∧
    (nnn = 0xFFF → fetch (completedAt (BitVec.ofNat 16 nnn.toNat) s) = .error 0x1000)

/-- R127: PC is nnn + V0, which never wraps; above 0xFFE the next fetch raises AddressOutOfRange (the spec's
decisions D3, D4). -/
def Obligations.JpV0AddsV0 : Prop :=
  ∀ (s : State) (nnn : Addr), ∃ pc : Word, exec (.jpV0Addr nnn) s = .next (completedAt pc s) ∧
    pc.toNat = nnn.toNat + (s.v 0).toNat ∧
    (0xFFE < pc.toNat → ∃ a, fetch (completedAt pc s) = .error a)

/-- R122 (precise by the spec's decision D5): CALL pushes its own address and jumps; with SP = 15 it raises StackOverflow. -/
def Obligations.CallPushesItsOwnAddress : Prop :=
  ∀ (s : State) (nnn : Addr),
    (s.sp < 15 → ∃ t, exec (.callAddr nnn) s = .next (completedAt (BitVec.ofNat 16 nnn.toNat) t) ∧
      t = { s with depth := t.depth, stack := t.stack } ∧ t.sp = s.sp + 1 ∧
      ∀ (k : Nat) (h : k < 16), t.stack[k]'h = if (k : Int) = t.sp then BitVec.ofNat 12 s.pc.toNat else s.stack[k]'h) ∧
    (s.sp = 15 → exec (.callAddr nnn) s = .next (faulted .stackOverflow s.pc s))

/-- R120 (P_RET_ADVANCE is the parameter D2, the fault the spec's decision D6): RET pops into PC and takes the auto-advance
unless P_RET_ADVANCE is false; with SP = −1 it raises StackUnderflow. -/
def Obligations.RetPopsIntoPc : Prop :=
  ∀ s : State,
    (∀ (k : Nat) (h : k < 16), s.sp = (k : Int) →
      ∃ t, exec .ret s = .next (completedAt t.pc t) ∧ t = { s with depth := t.depth, pc := t.pc } ∧ t.sp = s.sp - 1 ∧
        t.pc.toNat = (s.stack[k]'h).toNat + if s.params.retAdvance then 2 else 0) ∧
    (s.sp = -1 → exec .ret s = .next (faulted .stackUnderflow s.pc s))

/-- R123–R126: PC moves by 4 when the condition holds and by 2 when it does not; a skip over the last instruction of memory
leads to a fetch fault (R103, the spec's decision D4). -/
def Obligations.CompareSkipsMovePcByFourOrTwo : Prop :=
  ∀ (s : State) (x y : RegIdx) (kk : Byte),
    exec (.seImm x kk) s = .next (completedAt (s.pc + if s.v x = kk then 4 else 2) s) ∧
    exec (.sneImm x kk) s = .next (completedAt (s.pc + if s.v x = kk then 2 else 4) s) ∧
    exec (.seReg x y) s = .next (completedAt (s.pc + if s.v x = s.v y then 4 else 2) s) ∧
    exec (.sneReg x y) s = .next (completedAt (s.pc + if s.v x = s.v y then 2 else 4) s) ∧
    (s.pc = 0xFFC → fetch (completedAt (s.pc + 4) s) = .error 0x1000)

/-- R120, R122: a RET that finds the stack as a CALL left it returns to the word after the CALL (to the CALL itself when
P_RET_ADVANCE is false, parameter D2), with SP as before the CALL, whatever else the subroutine changed. -/
def Obligations.RetAfterCallReturnsPastTheCall : Prop :=
  ∀ (s t u : State) (nnn : Addr), s.pc.toNat ≤ 0xFFE → s.sp < 15 → exec (.callAddr nnn) s = .next t →
    u.stack = t.stack → u.depth = t.depth →
    ∃ w, exec .ret u = .next w ∧ w.pc = (if u.params.retAdvance then s.pc + 2 else s.pc) ∧ w.sp = s.sp ∧ w.stack = t.stack

/-! ### Index register and memory -/

/-- 43_index_memory.md R170, R171: I is nnn; I is (I + Vx) modulo 65536.  VF is not written. -/
def Obligations.IndexLoadAndAdd : Prop :=
  ∀ (s : State) (x : RegIdx) (nnn : Addr),
    exec (.ldIAddr nnn) s = .next (completed { s with idx := BitVec.ofNat 16 nnn.toNat }) ∧
    exec (.addIVx x) s = .next (completed { s with idx := BitVec.ofNat 16 (s.idx.toNat + (s.v x).toNat) })

/-- R172: I is 5·Vx for a hex digit; above 0x0F FontOutOfRange(Vx) is raised and I keeps its value (the fault
entry is R231, precise by the spec's decision D5). -/
def Obligations.FontGlyphAddressOrFault : Prop :=
  ∀ (s : State) (x : RegIdx),
    ((s.v x).toNat ≤ 0x0F → exec (.ldFVx x) s = .next (completed { s with idx := BitVec.ofNat 16 (5 * (s.v x).toNat) })) ∧
    (0x0F < (s.v x).toNat → exec (.ldFVx x) s = .next (faulted .fontOutOfRange (BitVec.ofNat 16 (s.v x).toNat) s))

/-- R173: the three decimal digits of Vx at I, I + 1, I + 2; every other byte and everything else keep their value.  The range
condition is the spec's decision D4. -/
def Obligations.BcdStoresThreeDigits : Prop :=
  ∀ (s : State) (x : RegIdx), s.idx.toNat + 2 ≤ 0xFFF →
    ∃ t, exec (.ldBVx x) s = .next (completed t) ∧ t = { s with mem := t.mem } ∧
      (t.readByte s.idx.toNat).toNat = (s.v x).toNat / 100 ∧
      (t.readByte (s.idx.toNat + 1)).toNat = (s.v x).toNat / 10 % 10 ∧
      (t.readByte (s.idx.toNat + 2)).toNat = (s.v x).toNat % 10 ∧
      ∀ a, a < s.idx.toNat ∨ s.idx.toNat + 3 ≤ a → t.readByte a = s.readByte a

/-- R174 (the count is the parameter D16, the range condition D4): V0.. at I, I + 1, …; I and every other byte keep their value. -/
def Obligations.StoreRegistersWritesFromI : Prop :=
  ∀ (s : State) (x : RegIdx), movedCount s x = 0 ∨ s.idx.toNat + movedCount s x ≤ 0x1000 →
    ∃ t, exec (.ldIVx x) s = .next (completed t) ∧ t = { s with mem := t.mem } ∧
      (∀ k : RegIdx, k.val < movedCount s x → t.readByte (s.idx.toNat + k.val) = s.v k) ∧
      ∀ a, a < s.idx.toNat ∨ s.idx.toNat + movedCount s x ≤ a → t.readByte a = s.readByte a

/-- R175 (D16, D4): V0.. from I, I + 1, …; I, memory and the other registers keep their value. -/
def Obligations.LoadRegistersReadsFromI : Prop :=
  ∀ (s : State) (x : RegIdx), movedCount s x = 0 ∨ s.idx.toNat + movedCount s x ≤ 0x1000 →
    ∃ t, exec (.ldVxI x) s = .next (completed t) ∧ t = { s with regs := t.regs } ∧
      ∀ k : RegIdx, t.v k = if k.val < movedCount s x then s.readByte (s.idx.toNat + k.val) else s.v k

/-- R176: registers stored by Fx55 and read back by Fx65, with I and the byte range unchanged in between, are the originals. -/
def Obligations.StoreThenLoadGivesRegistersBack : Prop :=
  ∀ (s t u : State) (x : RegIdx), exec (.ldIVx x) s = .next t → t.result = some .ok →
    u.idx = s.idx → u.params = s.params →
    (∀ k : RegIdx, k.val < movedCount s x → u.readByte (s.idx.toNat + k.val) = t.readByte (s.idx.toNat + k.val)) →
    ∃ w, exec (.ldVxI x) u = .next w ∧ w.result = some .ok ∧ ∀ k : RegIdx, k.val < movedCount s x → w.v k = s.v k

/-- 20_memory.md R61, R66 (the spec's decisions D4, D5): an access above 0xFFF raises AddressOutOfRange of the first failing
address before anything is read or written, in every instruction that reads or writes memory through I.  That address is max(I, 0x1000)
as the head of 43_index_memory.md has it, up to 0xFFFF, where R230's table bounds it by 0x10FE (DEDUCED, log 18). -/
def Obligations.OutOfRangeAccessRaises : Prop :=
  ∀ (s : State) (x y : RegIdx) (n : Nat) (a : Word),
    (OutOfRange s n a → exec (.drw x y n) s = .next (faulted .addressOutOfRange a s)) ∧
    (OutOfRange s 3 a → exec (.ldBVx x) s = .next (faulted .addressOutOfRange a s)) ∧
    (OutOfRange s (movedCount s x) a → exec (.ldIVx x) s = .next (faulted .addressOutOfRange a s)) ∧
    (OutOfRange s (movedCount s x) a → exec (.ldVxI x) s = .next (faulted .addressOutOfRange a s))

/-- 20_memory.md R71, 70_reset_and_hazards.md R275 (inferences of the spec from R69 and R103–R105): after an instruction j that
completes, Fx33 and Fx55 among them, the next Tick fetches the bytes j stored where it stored any, the old ones elsewhere, and
runs the instruction they decode to.  The Tick is any the host has queued (log 2) or, with an empty queue, the model's own (log 3). -/
def Obligations.StoredBytesAreFetchedNext : Prop :=
  ∀ (s t u : State) (i j : Instr), exec j s = .next t → t.result = some .ok → t.halted = false → t.waitingForKey = none →
    t.pc.toNat ≤ 0xFFE → TickStarts t u → decodeWord (wordAfter j s t.pc.toNat) = .ok i → step t = exec i u

/-! ### Display -/

/-- 44_display.md R190: every pixel off, every cell dirty; nothing else changes. -/
def Obligations.ClsClearsAndMarksEveryCell : Prop :=
  ∀ s : State, ∃ t, exec .cls s = .next (completed t) ∧ t = { s with fb := t.fb, dirty := t.dirty } ∧
    ∀ px py, t.fb.pixel px py = false ∧ t.dirty.pixel px py = true

/-- R191, R196: DRW of every form, under both values of P_OPERAND_READ (parameter D8), is R191's loop over its 8·n pixels said
as functions of coordinates; VF, FB and DIRTY alone change.  The range condition is D4.  It speaks of any natural number n of
rows; that a meaning given more than R191's 15 draws them all is the model's choice (log 24), which no decoded word asks for. -/
def Obligations.DrwRunsTheSpriteLoop : Prop :=
  ∀ (s : State) (x y : RegIdx) (n : Nat), n = 0 ∨ s.idx.toNat + n ≤ 0x1000 →
    ∃ t, exec (.drw x y n) s = .next (completed t) ∧ OnlyFlagAndScreenDiffer s t ∧
      t.v regF = (if (Canvas.sprite s x y n).hit then 1 else 0) ∧
      t.fb.pixel = (Canvas.sprite s x y n).on ∧ t.dirty.pixel = (Canvas.sprite s x y n).dirty

/-- R192–R195, R197: where P_OPERAND_READ does not show, a draw of at most 15 rows flips exactly the cells its set bits land on,
each coordinate reduced on its own, marks exactly those dirty, and sets VF iff one of them was on; n = 0 draws nothing.  The
other case, x or y = F under `live` (R196), is `DrwRunsTheSpriteLoop`. -/
def Obligations.DrwFlipsExactlyTheCoveredCells : Prop :=
  ∀ (s : State) (x y : RegIdx) (n : Nat), n ≤ 15 → n = 0 ∨ s.idx.toNat + n ≤ 0x1000 → ReadsAreEarly s x y →
    ∃ t, exec (.drw x y n) s = .next (completed t) ∧ OnlyFlagAndScreenDiffer s t ∧
      (∀ px py, SpriteCovers s (s.v x).toNat (s.v y).toNat n px py →
        t.fb.pixel px py = !s.fb.pixel px py ∧ t.dirty.pixel px py = true) ∧
      (∀ px py, ¬ SpriteCovers s (s.v x).toNat (s.v y).toNat n px py →
        t.fb.pixel px py = s.fb.pixel px py ∧ t.dirty.pixel px py = s.dirty.pixel px py) ∧
      ((∃ px py, SpriteCovers s (s.v x).toNat (s.v y).toNat n px py ∧ s.fb.pixel px py = true) → t.v regF = 1) ∧
      ((∀ px py, SpriteCovers s (s.v x).toNat (s.v y).toNat n px py → s.fb.pixel px py = false) → t.v regF = 0)

/-- R197: drawing the same sprite twice at the same place restores FB and marks the same cells dirty.  VF of the second draw is
1 iff a cell the sprite covers was off before the first (R197's own last clause overlooks cells that were on: log 23). -/
def Obligations.DrwTwiceRestoresTheScreen : Prop :=
  ∀ (s t : State) (x y : RegIdx) (n : Nat), n ≤ 15 → n = 0 ∨ s.idx.toNat + n ≤ 0x1000 → x ≠ regF → y ≠ regF →
    exec (.drw x y n) s = .next t →
    ∃ u, exec (.drw x y n) t = .next u ∧ u.fb = s.fb ∧ u.dirty = t.dirty ∧
      (u.v regF = 1 ↔ ∃ px py, SpriteCovers s (s.v x).toNat (s.v y).toNat n px py ∧ s.fb.pixel px py = false) ∧
      (u.v regF = 0 ∨ u.v regF = 1)

/-! ### Keypad and timers -/

/-- 45_keypad_timers.md R211, R212: SKP skips when the key Vx names is down, SKNP when it is not; above 0x0F both raise
InvalidKey(Vx) (the fault entry is R231, precise by the spec's decision D5). -/
def Obligations.KeySkipsOrInvalidKey : Prop :=
  ∀ (s : State) (x : RegIdx),
    ((s.v x).toNat ≤ 0x0F →
      exec (.skp x) s = .next (completedAt (s.pc + if s.keys.getLsbD (s.v x).toNat then 4 else 2) s) ∧
      exec (.sknp x) s = .next (completedAt (s.pc + if s.keys.getLsbD (s.v x).toNat then 2 else 4) s)) ∧
    (0x0F < (s.v x).toNat →
      exec (.skp x) s = .next (faulted .invalidKey (BitVec.ofNat 16 (s.v x).toNat) s) ∧
      exec (.sknp x) s = .next (faulted .invalidKey (BitVec.ofNat 16 (s.v x).toNat) s))

/-- R213 (the level condition is C7, the immediate poll the spec's decision D9): with a key down Vx is the lowest; with none the
core waits, and no timer, PC or register changes. -/
def Obligations.KeyLoadTakesLowestOrWaits : Prop :=
  ∀ (s : State) (x : RegIdx),
    (∀ k, IsLowestKey s.keys k → exec (.ldVxK x) s = .next (completed (s.setV x (BitVec.ofNat 8 k.val)))) ∧
    (s.keys = 0 → exec (.ldVxK x) s = .next { s with waitingForKey := some x, result := some .ok })

/-- R215–R217: Vx is DT as it was before this tick's decay; DT and ST are Vx and then decay in the same tick under `per_tick`. -/
def Obligations.TimerInstructionsReadAndWriteTimers : Prop :=
  ∀ (s : State) (x : RegIdx),
    exec (.ldVxDt x) s = .next (completed (s.setV x s.dt)) ∧
    exec (.ldDtVx x) s = .next (completed { s with dt := s.v x }) ∧
    exec (.ldStVx x) s = .next (completed { s with st := s.v x })

/-! ### Frames and faults over all instructions -/

/-- 10_state.md R32, 40_execution_cycle.md R110: no instruction writes a register that is neither its destination nor, for a
flag writer, VF. -/
def Obligations.RegistersOutsideDestinationsKept : Prop :=
  ∀ (i : Instr) (s t : State) (r : RegIdx), exec i s = .next t → ¬ i.mayWriteV s r → t.v r = s.v r

/-- 20_memory.md R60, R67: every byte of memory keeps its value but the three of Fx33 and the run of Fx55. -/
def Obligations.BytesOutsideStoresKept : Prop :=
  ∀ (i : Instr) (s t : State) (a : Nat), exec i s = .next t → ¬ i.mayStore s a → t.readByte a = s.readByte a

/-- R110, 10_state.md R34–R43: I, SP and STACK, FB and DIRTY, RNGSTATE, DT, ST, `waitingForKey`, `halted` and ERR keep their
value in every instruction whose rule does not name them (the timers but for the tick's decay); the parameters and the host's
side (log 1 to 6) always keep theirs. -/
def Obligations.SpecialStateKept : Prop :=
  ∀ (i : Instr) (s t : State), exec i s = .next t →
    (¬ i.writesI → t.idx = s.idx) ∧ (¬ i.writesStack → t.depth = s.depth ∧ t.stack = s.stack) ∧
    (¬ i.draws → t.fb = s.fb ∧ t.dirty = s.dirty) ∧ (¬ i.drawsByte → t.rng = s.rng) ∧
    ((∀ x, i ≠ .ldDtVx x) → t.dt = s.dt ∨ t.dt = timerAfterTick s.params.timerMode s.dt) ∧
    ((∀ x, i ≠ .ldStVx x) → t.st = s.st ∨ t.st = timerAfterTick s.params.timerMode s.st) ∧
    ((∀ x, i ≠ .ldVxK x) → t.waitingForKey = s.waitingForKey) ∧
    (t.result = some .ok → t.halted = s.halted ∧ t.err = s.err) ∧
    t.params = s.params ∧ t.keys = s.keys ∧ t.events = s.events ∧ t.presented = s.presented

/-- R111, 60_exceptions.md R231, R232 (the spec's decision D5): a Tick that returns Fault(K, v) has set `halted` and ERR to
(K, v) and written nothing else.  `TickStarts`: log 2, log 3. -/
def Obligations.FaultsArePrecise : Prop :=
  ∀ (s t u : State) (kind : FaultKind) (info : Word), TickStarts s t → step s = .next u →
    u.result = some (.fault kind info) → u = faulted kind info t

/-- R230, R233 (kinds 5 and 6 are the spec's decisions D6, D4): each instruction raises exactly the fault of its row, exactly
when its condition holds.  The information is the table's, but that of AddressOutOfRange: it is the first failing address
max(I, 0x1000) as the head of 43_index_memory.md has it, up to 0xFFFF, where R230's table bounds it by 0x10FE (DEDUCED, log 18). -/
def Obligations.InstructionsRaiseExactlyTheirFaults : Prop :=
  ∀ (i : Instr) (s : State) (kind : FaultKind) (info : Word),
    exec i s = .next (faulted kind info s) ↔ Raises i s kind info

/-- R105, R112, 93_implementation_defined.md: every instruction answers a next state, with the result Ok exactly when it raises
nothing: no instruction stops or is refused. -/
def Obligations.EveryInstructionCompletesOrRaises : Prop :=
  ∀ (i : Instr) (s : State), ∃ t, exec i s = .next t ∧
    (t.result = some .ok ↔ ¬ ∃ kind info, Raises i s kind info)

/-- 45_keypad_timers.md R210: "The core asks for a key only through SKP, SKNP and Fx0A": every other instruction does the same
at any key levels (one sample per Tick is the spec's decision D10). -/
def Obligations.KeysMatterOnlyToKeyInstructions : Prop :=
  ∀ (i : Instr) (s t : State) (keys : BitVec 16), ¬ i.readsKeys → exec i s = .next t →
    exec i { s with keys := keys } = .next { t with keys := keys }

/-- 10_state.md R37: "No instruction reads ST": with another value of ST every instruction does the same to all but ST. -/
def Obligations.SoundTimerIsNeverRead : Prop :=
  ∀ (i : Instr) (s t : State) (st : Byte), exec i s = .next t →
    ∃ st', exec i { s with st := st } = .next { t with st := st' }

/-- R236, R248: until Reset, a halted machine keeps all its state, but that Present clears DIRTY (the events are the spec's
decisions D22, D23). -/
def Obligations.HaltedStateSurvivesUntilReset : Prop :=
  ∀ s t : State, s.halted = true → (∀ rom rest, s.events ≠ .reset rom :: rest) → step s = .next t →
    t = { s with
      events := s.events.tail, keys := t.keys, result := t.result, dirty := t.dirty, presented := t.presented } ∧
    (t.dirty = s.dirty ∨ ∃ rest, s.events = .present :: rest)

/-! ### Invariants of the machine -/

/-- Every step keeps memory in its canonical form, so equal memories are equal data (log 9). -/
def Obligations.StepKeepsMemoryCanonical : Prop :=
  ∀ s t : State, MemoryCanonical s → step s = .next t → MemoryCanonical t

/-- 10_state.md R33 (the fetch range is D3, D4), 45_keypad_timers.md R213 (the wait is D9): PC never exceeds 0x10FE, so it never
wraps, and a core that waits for a register has PC at the Fx0A that names it. -/
def Obligations.StepKeepsPcBounded : Prop :=
  ∀ s t : State, PcBounded s → WaitsAtItsKeyLoad s → step s = .next t → PcBounded t ∧ WaitsAtItsKeyLoad t

/-- 10_state.md R36 (an inference of the spec from R33 and R122): every step keeps the entries on the stack at most 0xFFE, and an
entry on the stack after a step was there before it, or is the address of the CALL that the step fetched. -/
def Obligations.StepKeepsStackFetchable : Prop :=
  ∀ s t : State, step s = .next t →
    (StackFetchable s → StackFetchable t) ∧
    ∀ (k : Nat) (h : k < 16), k < t.depth.val →
      (k < s.depth.val ∧ t.stack[k]'h = s.stack[k]'h) ∨
      ((t.stack[k]'h).toNat = s.pc.toNat ∧ s.pc.toNat ≤ 0xFFE ∧ ∃ nnn, decodeWord (wordAtPc s) = .ok (.callAddr nnn))

/-- R40, R42: ERR is set only with `halted`. -/
def Obligations.StepKeepsErrImpliesHalted : Prop :=
  ∀ s t : State, ErrImpliesHalted s → step s = .next t → ErrImpliesHalted t

/-- R244: between two Presents, every cell whose pixel differs from what the host last saw is dirty (`presented`, log 6). -/
def Obligations.StepKeepsDirtyCoveringChanges : Prop :=
  ∀ s t : State, DirtyCoversChanges s → step s = .next t → DirtyCoversChanges t

/-- 00_scope.md R9: the configuration parameters are not state: no step writes them (log 1). -/
def Obligations.StepKeepsParameters : Prop :=
  ∀ s t : State, step s = .next t → t.params = s.params

/-- The state after reset satisfies every invariant.  Memory in canonical form and nothing presented
are the model's (log 9, log 6). -/
def Obligations.ResetSatisfiesTheInvariants : Prop := Inv State.reset
end

