-- ==== Sys2Proof/Laws/Decoding.lean ====
section
/-! SUPPORT. The decoder: what an answer of `decodeWord` says of the table. -/

namespace Sys2Proof

/-- A decoded word matches the row its instruction is built from. -/
theorem decodeWord_eq_ok {w : Word} {i : Instr} (h : decodeWord w = .ok i) :
    ∃ r ∈ instructionTable, r.fits w = true ∧ r.build w = i := by
  unfold decodeWord at h
  split at h
  · next r hr => exact ⟨r, List.mem_of_find?_eq_some hr, by simpa using List.find?_some hr, by simpa using h⟩
  · simp at h

/-- A word decodes to an error exactly when no row matches it, and the error names the word (R87). -/
theorem decodeWord_eq_error {w : Word} {e : DecodeError} :
    decodeWord w = .error e ↔ e = .unknownOpcode w ∧ ∀ r ∈ instructionTable, r.fits w = false := by
  unfold decodeWord
  split
  · next r hr =>
    simp only [reduceCtorEq, false_iff, not_and]
    intro _ hall
    have hf : r.fits w = true := by simpa using List.find?_some hr
    simp [hall r (List.mem_of_find?_eq_some hr)] at hf
  · next hn =>
    have : ∀ r ∈ instructionTable, r.fits w = false := by
      intro r hr
      simpa using List.find?_eq_none.1 hn r hr
    rw [Except.error.injEq]
    exact ⟨fun h => ⟨h.symm, this⟩, fun h => h.1.symm⟩

/-- The decoder of a word, from its bytes (R65, R80). -/
theorem decode_word_bytes {hi lo : Byte} {rest : List Byte} {i : Instr} (h : decodeWord (wordOfBytes hi lo) = .ok i) :
    decode (hi :: lo :: rest) = .ok (i, rest) := by
  simp [decode, h]

/-- Row k of the table fits the words whose masked bits are its pattern. -/
theorem Row.fits_iff (r : Row) (w : Word) : r.fits w = true ↔ w &&& r.mask = r.pat := by
  simp [Row.fits]

end Sys2Proof
end

