-- ==== Sys2Proof/Laws/State.lean ====
section
/-! SUPPORT. One lemma per field of the state per named update, so that no later proof unfolds a record update. -/

namespace Sys2Proof.Machine

/-! ### `setV` -/

@[simp] theorem setV_mem (s : State) (r : RegIdx) (b : Byte) : (s.setV r b).mem = s.mem := rfl
@[simp] theorem setV_regs (s : State) (r : RegIdx) (b : Byte) : (s.setV r b).regs = s.regs.set r.val b r.isLt := rfl
@[simp] theorem setV_idx (s : State) (r : RegIdx) (b : Byte) : (s.setV r b).idx = s.idx := rfl
@[simp] theorem setV_pc (s : State) (r : RegIdx) (b : Byte) : (s.setV r b).pc = s.pc := rfl
@[simp] theorem setV_depth (s : State) (r : RegIdx) (b : Byte) : (s.setV r b).depth = s.depth := rfl
@[simp] theorem setV_stack (s : State) (r : RegIdx) (b : Byte) : (s.setV r b).stack = s.stack := rfl
@[simp] theorem setV_dt (s : State) (r : RegIdx) (b : Byte) : (s.setV r b).dt = s.dt := rfl
@[simp] theorem setV_st (s : State) (r : RegIdx) (b : Byte) : (s.setV r b).st = s.st := rfl
@[simp] theorem setV_fb (s : State) (r : RegIdx) (b : Byte) : (s.setV r b).fb = s.fb := rfl
@[simp] theorem setV_dirty (s : State) (r : RegIdx) (b : Byte) : (s.setV r b).dirty = s.dirty := rfl
@[simp] theorem setV_halted (s : State) (r : RegIdx) (b : Byte) : (s.setV r b).halted = s.halted := rfl
@[simp] theorem setV_waitingForKey (s : State) (r : RegIdx) (b : Byte) : (s.setV r b).waitingForKey = s.waitingForKey := rfl
@[simp] theorem setV_err (s : State) (r : RegIdx) (b : Byte) : (s.setV r b).err = s.err := rfl
@[simp] theorem setV_rng (s : State) (r : RegIdx) (b : Byte) : (s.setV r b).rng = s.rng := rfl
@[simp] theorem setV_params (s : State) (r : RegIdx) (b : Byte) : (s.setV r b).params = s.params := rfl
@[simp] theorem setV_keys (s : State) (r : RegIdx) (b : Byte) : (s.setV r b).keys = s.keys := rfl
@[simp] theorem setV_events (s : State) (r : RegIdx) (b : Byte) : (s.setV r b).events = s.events := rfl
@[simp] theorem setV_result (s : State) (r : RegIdx) (b : Byte) : (s.setV r b).result = s.result := rfl
@[simp] theorem setV_presented (s : State) (r : RegIdx) (b : Byte) : (s.setV r b).presented = s.presented := rfl

/-! ### `storeBytes` -/

@[simp] theorem storeBytes_mem (s : State) (a : Nat) (bs : List Byte) : (s.storeBytes a bs).mem = s.mem.writeBytes s.params.font a bs := rfl
@[simp] theorem storeBytes_regs (s : State) (a : Nat) (bs : List Byte) : (s.storeBytes a bs).regs = s.regs := rfl
@[simp] theorem storeBytes_idx (s : State) (a : Nat) (bs : List Byte) : (s.storeBytes a bs).idx = s.idx := rfl
@[simp] theorem storeBytes_pc (s : State) (a : Nat) (bs : List Byte) : (s.storeBytes a bs).pc = s.pc := rfl
@[simp] theorem storeBytes_depth (s : State) (a : Nat) (bs : List Byte) : (s.storeBytes a bs).depth = s.depth := rfl
@[simp] theorem storeBytes_stack (s : State) (a : Nat) (bs : List Byte) : (s.storeBytes a bs).stack = s.stack := rfl
@[simp] theorem storeBytes_dt (s : State) (a : Nat) (bs : List Byte) : (s.storeBytes a bs).dt = s.dt := rfl
@[simp] theorem storeBytes_st (s : State) (a : Nat) (bs : List Byte) : (s.storeBytes a bs).st = s.st := rfl
@[simp] theorem storeBytes_fb (s : State) (a : Nat) (bs : List Byte) : (s.storeBytes a bs).fb = s.fb := rfl
@[simp] theorem storeBytes_dirty (s : State) (a : Nat) (bs : List Byte) : (s.storeBytes a bs).dirty = s.dirty := rfl
@[simp] theorem storeBytes_halted (s : State) (a : Nat) (bs : List Byte) : (s.storeBytes a bs).halted = s.halted := rfl
@[simp] theorem storeBytes_waitingForKey (s : State) (a : Nat) (bs : List Byte) : (s.storeBytes a bs).waitingForKey = s.waitingForKey := rfl
@[simp] theorem storeBytes_err (s : State) (a : Nat) (bs : List Byte) : (s.storeBytes a bs).err = s.err := rfl
@[simp] theorem storeBytes_rng (s : State) (a : Nat) (bs : List Byte) : (s.storeBytes a bs).rng = s.rng := rfl
@[simp] theorem storeBytes_params (s : State) (a : Nat) (bs : List Byte) : (s.storeBytes a bs).params = s.params := rfl
@[simp] theorem storeBytes_keys (s : State) (a : Nat) (bs : List Byte) : (s.storeBytes a bs).keys = s.keys := rfl
@[simp] theorem storeBytes_events (s : State) (a : Nat) (bs : List Byte) : (s.storeBytes a bs).events = s.events := rfl
@[simp] theorem storeBytes_result (s : State) (a : Nat) (bs : List Byte) : (s.storeBytes a bs).result = s.result := rfl
@[simp] theorem storeBytes_presented (s : State) (a : Nat) (bs : List Byte) : (s.storeBytes a bs).presented = s.presented := rfl

/-! ### `skipIf` -/

@[simp] theorem skipIf_mem (s : State) (c : Bool) : (skipIf c s).mem = s.mem := rfl
@[simp] theorem skipIf_regs (s : State) (c : Bool) : (skipIf c s).regs = s.regs := rfl
@[simp] theorem skipIf_idx (s : State) (c : Bool) : (skipIf c s).idx = s.idx := rfl
@[simp] theorem skipIf_pc (s : State) (c : Bool) : (skipIf c s).pc = if c then s.pc + 2 else s.pc := rfl
@[simp] theorem skipIf_depth (s : State) (c : Bool) : (skipIf c s).depth = s.depth := rfl
@[simp] theorem skipIf_stack (s : State) (c : Bool) : (skipIf c s).stack = s.stack := rfl
@[simp] theorem skipIf_dt (s : State) (c : Bool) : (skipIf c s).dt = s.dt := rfl
@[simp] theorem skipIf_st (s : State) (c : Bool) : (skipIf c s).st = s.st := rfl
@[simp] theorem skipIf_fb (s : State) (c : Bool) : (skipIf c s).fb = s.fb := rfl
@[simp] theorem skipIf_dirty (s : State) (c : Bool) : (skipIf c s).dirty = s.dirty := rfl
@[simp] theorem skipIf_halted (s : State) (c : Bool) : (skipIf c s).halted = s.halted := rfl
@[simp] theorem skipIf_waitingForKey (s : State) (c : Bool) : (skipIf c s).waitingForKey = s.waitingForKey := rfl
@[simp] theorem skipIf_err (s : State) (c : Bool) : (skipIf c s).err = s.err := rfl
@[simp] theorem skipIf_rng (s : State) (c : Bool) : (skipIf c s).rng = s.rng := rfl
@[simp] theorem skipIf_params (s : State) (c : Bool) : (skipIf c s).params = s.params := rfl
@[simp] theorem skipIf_keys (s : State) (c : Bool) : (skipIf c s).keys = s.keys := rfl
@[simp] theorem skipIf_events (s : State) (c : Bool) : (skipIf c s).events = s.events := rfl
@[simp] theorem skipIf_result (s : State) (c : Bool) : (skipIf c s).result = s.result := rfl
@[simp] theorem skipIf_presented (s : State) (c : Bool) : (skipIf c s).presented = s.presented := rfl

/-! ### `timerDecay` -/

@[simp] theorem timerDecay_mem (s : State) : (timerDecay s).mem = s.mem := rfl
@[simp] theorem timerDecay_regs (s : State) : (timerDecay s).regs = s.regs := rfl
@[simp] theorem timerDecay_idx (s : State) : (timerDecay s).idx = s.idx := rfl
@[simp] theorem timerDecay_pc (s : State) : (timerDecay s).pc = s.pc := rfl
@[simp] theorem timerDecay_depth (s : State) : (timerDecay s).depth = s.depth := rfl
@[simp] theorem timerDecay_stack (s : State) : (timerDecay s).stack = s.stack := rfl
@[simp] theorem timerDecay_dt (s : State) : (timerDecay s).dt = countDown s.dt := rfl
@[simp] theorem timerDecay_st (s : State) : (timerDecay s).st = countDown s.st := rfl
@[simp] theorem timerDecay_fb (s : State) : (timerDecay s).fb = s.fb := rfl
@[simp] theorem timerDecay_dirty (s : State) : (timerDecay s).dirty = s.dirty := rfl
@[simp] theorem timerDecay_halted (s : State) : (timerDecay s).halted = s.halted := rfl
@[simp] theorem timerDecay_waitingForKey (s : State) : (timerDecay s).waitingForKey = s.waitingForKey := rfl
@[simp] theorem timerDecay_err (s : State) : (timerDecay s).err = s.err := rfl
@[simp] theorem timerDecay_rng (s : State) : (timerDecay s).rng = s.rng := rfl
@[simp] theorem timerDecay_params (s : State) : (timerDecay s).params = s.params := rfl
@[simp] theorem timerDecay_keys (s : State) : (timerDecay s).keys = s.keys := rfl
@[simp] theorem timerDecay_events (s : State) : (timerDecay s).events = s.events := rfl
@[simp] theorem timerDecay_result (s : State) : (timerDecay s).result = s.result := rfl
@[simp] theorem timerDecay_presented (s : State) : (timerDecay s).presented = s.presented := rfl

/-! ### `tickDecay` -/

@[simp] theorem tickDecay_mem (s : State) : (tickDecay s).mem = s.mem := by unfold tickDecay; split <;> rfl
@[simp] theorem tickDecay_regs (s : State) : (tickDecay s).regs = s.regs := by unfold tickDecay; split <;> rfl
@[simp] theorem tickDecay_idx (s : State) : (tickDecay s).idx = s.idx := by unfold tickDecay; split <;> rfl
@[simp] theorem tickDecay_pc (s : State) : (tickDecay s).pc = s.pc := by unfold tickDecay; split <;> rfl
@[simp] theorem tickDecay_depth (s : State) : (tickDecay s).depth = s.depth := by unfold tickDecay; split <;> rfl
@[simp] theorem tickDecay_stack (s : State) : (tickDecay s).stack = s.stack := by unfold tickDecay; split <;> rfl
@[simp] theorem tickDecay_fb (s : State) : (tickDecay s).fb = s.fb := by unfold tickDecay; split <;> rfl
@[simp] theorem tickDecay_dirty (s : State) : (tickDecay s).dirty = s.dirty := by unfold tickDecay; split <;> rfl
@[simp] theorem tickDecay_halted (s : State) : (tickDecay s).halted = s.halted := by unfold tickDecay; split <;> rfl
@[simp] theorem tickDecay_waitingForKey (s : State) : (tickDecay s).waitingForKey = s.waitingForKey := by unfold tickDecay; split <;> rfl
@[simp] theorem tickDecay_err (s : State) : (tickDecay s).err = s.err := by unfold tickDecay; split <;> rfl
@[simp] theorem tickDecay_rng (s : State) : (tickDecay s).rng = s.rng := by unfold tickDecay; split <;> rfl
@[simp] theorem tickDecay_params (s : State) : (tickDecay s).params = s.params := by unfold tickDecay; split <;> rfl
@[simp] theorem tickDecay_keys (s : State) : (tickDecay s).keys = s.keys := by unfold tickDecay; split <;> rfl
@[simp] theorem tickDecay_events (s : State) : (tickDecay s).events = s.events := by unfold tickDecay; split <;> rfl
@[simp] theorem tickDecay_result (s : State) : (tickDecay s).result = s.result := by unfold tickDecay; split <;> rfl
@[simp] theorem tickDecay_presented (s : State) : (tickDecay s).presented = s.presented := by unfold tickDecay; split <;> rfl

/-! ### `advance` -/

@[simp] theorem advance_mem (s : State) : (advance s).mem = s.mem := rfl
@[simp] theorem advance_regs (s : State) : (advance s).regs = s.regs := rfl
@[simp] theorem advance_idx (s : State) : (advance s).idx = s.idx := rfl
@[simp] theorem advance_pc (s : State) : (advance s).pc = s.pc + 2 := rfl
@[simp] theorem advance_depth (s : State) : (advance s).depth = s.depth := rfl
@[simp] theorem advance_stack (s : State) : (advance s).stack = s.stack := rfl
@[simp] theorem advance_dt (s : State) : (advance s).dt = s.dt := rfl
@[simp] theorem advance_st (s : State) : (advance s).st = s.st := rfl
@[simp] theorem advance_fb (s : State) : (advance s).fb = s.fb := rfl
@[simp] theorem advance_dirty (s : State) : (advance s).dirty = s.dirty := rfl
@[simp] theorem advance_halted (s : State) : (advance s).halted = s.halted := rfl
@[simp] theorem advance_waitingForKey (s : State) : (advance s).waitingForKey = s.waitingForKey := rfl
@[simp] theorem advance_err (s : State) : (advance s).err = s.err := rfl
@[simp] theorem advance_rng (s : State) : (advance s).rng = s.rng := rfl
@[simp] theorem advance_params (s : State) : (advance s).params = s.params := rfl
@[simp] theorem advance_keys (s : State) : (advance s).keys = s.keys := rfl
@[simp] theorem advance_events (s : State) : (advance s).events = s.events := rfl
@[simp] theorem advance_result (s : State) : (advance s).result = s.result := rfl
@[simp] theorem advance_presented (s : State) : (advance s).presented = s.presented := rfl

/-! ### `returnOk` -/

@[simp] theorem returnOk_mem (s : State) : (returnOk s).mem = s.mem := rfl
@[simp] theorem returnOk_regs (s : State) : (returnOk s).regs = s.regs := rfl
@[simp] theorem returnOk_idx (s : State) : (returnOk s).idx = s.idx := rfl
@[simp] theorem returnOk_pc (s : State) : (returnOk s).pc = s.pc := rfl
@[simp] theorem returnOk_depth (s : State) : (returnOk s).depth = s.depth := rfl
@[simp] theorem returnOk_stack (s : State) : (returnOk s).stack = s.stack := rfl
@[simp] theorem returnOk_dt (s : State) : (returnOk s).dt = s.dt := rfl
@[simp] theorem returnOk_st (s : State) : (returnOk s).st = s.st := rfl
@[simp] theorem returnOk_fb (s : State) : (returnOk s).fb = s.fb := rfl
@[simp] theorem returnOk_dirty (s : State) : (returnOk s).dirty = s.dirty := rfl
@[simp] theorem returnOk_halted (s : State) : (returnOk s).halted = s.halted := rfl
@[simp] theorem returnOk_waitingForKey (s : State) : (returnOk s).waitingForKey = s.waitingForKey := rfl
@[simp] theorem returnOk_err (s : State) : (returnOk s).err = s.err := rfl
@[simp] theorem returnOk_rng (s : State) : (returnOk s).rng = s.rng := rfl
@[simp] theorem returnOk_params (s : State) : (returnOk s).params = s.params := rfl
@[simp] theorem returnOk_keys (s : State) : (returnOk s).keys = s.keys := rfl
@[simp] theorem returnOk_events (s : State) : (returnOk s).events = s.events := rfl
@[simp] theorem returnOk_result (s : State) : (returnOk s).result = some .ok := rfl
@[simp] theorem returnOk_presented (s : State) : (returnOk s).presented = s.presented := rfl

/-! ### `setFlag` -/

@[simp] theorem setFlag_mem (s : State) (f : Bool) : (setFlag s f).mem = s.mem := rfl
@[simp] theorem setFlag_regs (s : State) (f : Bool) : (setFlag s f).regs = s.regs.set 15 (flagByte f) := rfl
@[simp] theorem setFlag_idx (s : State) (f : Bool) : (setFlag s f).idx = s.idx := rfl
@[simp] theorem setFlag_pc (s : State) (f : Bool) : (setFlag s f).pc = s.pc := rfl
@[simp] theorem setFlag_depth (s : State) (f : Bool) : (setFlag s f).depth = s.depth := rfl
@[simp] theorem setFlag_stack (s : State) (f : Bool) : (setFlag s f).stack = s.stack := rfl
@[simp] theorem setFlag_dt (s : State) (f : Bool) : (setFlag s f).dt = s.dt := rfl
@[simp] theorem setFlag_st (s : State) (f : Bool) : (setFlag s f).st = s.st := rfl
@[simp] theorem setFlag_fb (s : State) (f : Bool) : (setFlag s f).fb = s.fb := rfl
@[simp] theorem setFlag_dirty (s : State) (f : Bool) : (setFlag s f).dirty = s.dirty := rfl
@[simp] theorem setFlag_halted (s : State) (f : Bool) : (setFlag s f).halted = s.halted := rfl
@[simp] theorem setFlag_waitingForKey (s : State) (f : Bool) : (setFlag s f).waitingForKey = s.waitingForKey := rfl
@[simp] theorem setFlag_err (s : State) (f : Bool) : (setFlag s f).err = s.err := rfl
@[simp] theorem setFlag_rng (s : State) (f : Bool) : (setFlag s f).rng = s.rng := rfl
@[simp] theorem setFlag_params (s : State) (f : Bool) : (setFlag s f).params = s.params := rfl
@[simp] theorem setFlag_keys (s : State) (f : Bool) : (setFlag s f).keys = s.keys := rfl
@[simp] theorem setFlag_events (s : State) (f : Bool) : (setFlag s f).events = s.events := rfl
@[simp] theorem setFlag_result (s : State) (f : Bool) : (setFlag s f).result = s.result := rfl
@[simp] theorem setFlag_presented (s : State) (f : Bool) : (setFlag s f).presented = s.presented := rfl

/-! ### `setFlagThenResult` -/

@[simp] theorem setFlagThenResult_mem (s : State) (x : RegIdx) (f : Bool) (g : State → Byte) : (setFlagThenResult s x f g).mem = s.mem := rfl
@[simp] theorem setFlagThenResult_idx (s : State) (x : RegIdx) (f : Bool) (g : State → Byte) : (setFlagThenResult s x f g).idx = s.idx := rfl
@[simp] theorem setFlagThenResult_pc (s : State) (x : RegIdx) (f : Bool) (g : State → Byte) : (setFlagThenResult s x f g).pc = s.pc := rfl
@[simp] theorem setFlagThenResult_depth (s : State) (x : RegIdx) (f : Bool) (g : State → Byte) : (setFlagThenResult s x f g).depth = s.depth := rfl
@[simp] theorem setFlagThenResult_stack (s : State) (x : RegIdx) (f : Bool) (g : State → Byte) : (setFlagThenResult s x f g).stack = s.stack := rfl
@[simp] theorem setFlagThenResult_dt (s : State) (x : RegIdx) (f : Bool) (g : State → Byte) : (setFlagThenResult s x f g).dt = s.dt := rfl
@[simp] theorem setFlagThenResult_st (s : State) (x : RegIdx) (f : Bool) (g : State → Byte) : (setFlagThenResult s x f g).st = s.st := rfl
@[simp] theorem setFlagThenResult_fb (s : State) (x : RegIdx) (f : Bool) (g : State → Byte) : (setFlagThenResult s x f g).fb = s.fb := rfl
@[simp] theorem setFlagThenResult_dirty (s : State) (x : RegIdx) (f : Bool) (g : State → Byte) : (setFlagThenResult s x f g).dirty = s.dirty := rfl
@[simp] theorem setFlagThenResult_halted (s : State) (x : RegIdx) (f : Bool) (g : State → Byte) : (setFlagThenResult s x f g).halted = s.halted := rfl
@[simp] theorem setFlagThenResult_waitingForKey (s : State) (x : RegIdx) (f : Bool) (g : State → Byte) : (setFlagThenResult s x f g).waitingForKey = s.waitingForKey := rfl
@[simp] theorem setFlagThenResult_err (s : State) (x : RegIdx) (f : Bool) (g : State → Byte) : (setFlagThenResult s x f g).err = s.err := rfl
@[simp] theorem setFlagThenResult_rng (s : State) (x : RegIdx) (f : Bool) (g : State → Byte) : (setFlagThenResult s x f g).rng = s.rng := rfl
@[simp] theorem setFlagThenResult_params (s : State) (x : RegIdx) (f : Bool) (g : State → Byte) : (setFlagThenResult s x f g).params = s.params := rfl
@[simp] theorem setFlagThenResult_keys (s : State) (x : RegIdx) (f : Bool) (g : State → Byte) : (setFlagThenResult s x f g).keys = s.keys := rfl
@[simp] theorem setFlagThenResult_events (s : State) (x : RegIdx) (f : Bool) (g : State → Byte) : (setFlagThenResult s x f g).events = s.events := rfl
@[simp] theorem setFlagThenResult_result (s : State) (x : RegIdx) (f : Bool) (g : State → Byte) : (setFlagThenResult s x f g).result = s.result := rfl
@[simp] theorem setFlagThenResult_presented (s : State) (x : RegIdx) (f : Bool) (g : State → Byte) : (setFlagThenResult s x f g).presented = s.presented := rfl

/-! ### `loadRegs` -/

@[simp] theorem loadRegs_mem (s : State) (c : Nat) : (loadRegs s c).mem = s.mem := rfl
@[simp] theorem loadRegs_idx (s : State) (c : Nat) : (loadRegs s c).idx = s.idx := rfl
@[simp] theorem loadRegs_pc (s : State) (c : Nat) : (loadRegs s c).pc = s.pc := rfl
@[simp] theorem loadRegs_depth (s : State) (c : Nat) : (loadRegs s c).depth = s.depth := rfl
@[simp] theorem loadRegs_stack (s : State) (c : Nat) : (loadRegs s c).stack = s.stack := rfl
@[simp] theorem loadRegs_dt (s : State) (c : Nat) : (loadRegs s c).dt = s.dt := rfl
@[simp] theorem loadRegs_st (s : State) (c : Nat) : (loadRegs s c).st = s.st := rfl
@[simp] theorem loadRegs_fb (s : State) (c : Nat) : (loadRegs s c).fb = s.fb := rfl
@[simp] theorem loadRegs_dirty (s : State) (c : Nat) : (loadRegs s c).dirty = s.dirty := rfl
@[simp] theorem loadRegs_halted (s : State) (c : Nat) : (loadRegs s c).halted = s.halted := rfl
@[simp] theorem loadRegs_waitingForKey (s : State) (c : Nat) : (loadRegs s c).waitingForKey = s.waitingForKey := rfl
@[simp] theorem loadRegs_err (s : State) (c : Nat) : (loadRegs s c).err = s.err := rfl
@[simp] theorem loadRegs_rng (s : State) (c : Nat) : (loadRegs s c).rng = s.rng := rfl
@[simp] theorem loadRegs_params (s : State) (c : Nat) : (loadRegs s c).params = s.params := rfl
@[simp] theorem loadRegs_keys (s : State) (c : Nat) : (loadRegs s c).keys = s.keys := rfl
@[simp] theorem loadRegs_events (s : State) (c : Nat) : (loadRegs s c).events = s.events := rfl
@[simp] theorem loadRegs_result (s : State) (c : Nat) : (loadRegs s c).result = s.result := rfl
@[simp] theorem loadRegs_presented (s : State) (c : Nat) : (loadRegs s c).presented = s.presented := rfl

/-! ### `push` -/

@[simp] theorem push_mem (s : State) (a : Addr) (h : s.depth.val < 16) : (push s a h).mem = s.mem := rfl
@[simp] theorem push_regs (s : State) (a : Addr) (h : s.depth.val < 16) : (push s a h).regs = s.regs := rfl
@[simp] theorem push_idx (s : State) (a : Addr) (h : s.depth.val < 16) : (push s a h).idx = s.idx := rfl
@[simp] theorem push_pc (s : State) (a : Addr) (h : s.depth.val < 16) : (push s a h).pc = s.pc := rfl
@[simp] theorem push_depth (s : State) (a : Addr) (h : s.depth.val < 16) : (push s a h).depth = ⟨s.depth.val + 1, by omega⟩ := rfl
@[simp] theorem push_stack (s : State) (a : Addr) (h : s.depth.val < 16) : (push s a h).stack = s.stack.set s.depth.val a h := rfl
@[simp] theorem push_dt (s : State) (a : Addr) (h : s.depth.val < 16) : (push s a h).dt = s.dt := rfl
@[simp] theorem push_st (s : State) (a : Addr) (h : s.depth.val < 16) : (push s a h).st = s.st := rfl
@[simp] theorem push_fb (s : State) (a : Addr) (h : s.depth.val < 16) : (push s a h).fb = s.fb := rfl
@[simp] theorem push_dirty (s : State) (a : Addr) (h : s.depth.val < 16) : (push s a h).dirty = s.dirty := rfl
@[simp] theorem push_halted (s : State) (a : Addr) (h : s.depth.val < 16) : (push s a h).halted = s.halted := rfl
@[simp] theorem push_waitingForKey (s : State) (a : Addr) (h : s.depth.val < 16) : (push s a h).waitingForKey = s.waitingForKey := rfl
@[simp] theorem push_err (s : State) (a : Addr) (h : s.depth.val < 16) : (push s a h).err = s.err := rfl
@[simp] theorem push_rng (s : State) (a : Addr) (h : s.depth.val < 16) : (push s a h).rng = s.rng := rfl
@[simp] theorem push_params (s : State) (a : Addr) (h : s.depth.val < 16) : (push s a h).params = s.params := rfl
@[simp] theorem push_keys (s : State) (a : Addr) (h : s.depth.val < 16) : (push s a h).keys = s.keys := rfl
@[simp] theorem push_events (s : State) (a : Addr) (h : s.depth.val < 16) : (push s a h).events = s.events := rfl
@[simp] theorem push_result (s : State) (a : Addr) (h : s.depth.val < 16) : (push s a h).result = s.result := rfl
@[simp] theorem push_presented (s : State) (a : Addr) (h : s.depth.val < 16) : (push s a h).presented = s.presented := rfl

/-! ### `popToPc` -/

@[simp] theorem popToPc_mem (s : State) (h : 0 < s.depth.val) : (popToPc s h).mem = s.mem := rfl
@[simp] theorem popToPc_regs (s : State) (h : 0 < s.depth.val) : (popToPc s h).regs = s.regs := rfl
@[simp] theorem popToPc_idx (s : State) (h : 0 < s.depth.val) : (popToPc s h).idx = s.idx := rfl
@[simp] theorem popToPc_pc (s : State) (h : 0 < s.depth.val) : (popToPc s h).pc = (s.stack[s.depth.val - 1]'(by omega)).setWidth 16 := rfl
@[simp] theorem popToPc_depth (s : State) (h : 0 < s.depth.val) : (popToPc s h).depth = ⟨s.depth.val - 1, by omega⟩ := rfl
@[simp] theorem popToPc_stack (s : State) (h : 0 < s.depth.val) : (popToPc s h).stack = s.stack := rfl
@[simp] theorem popToPc_dt (s : State) (h : 0 < s.depth.val) : (popToPc s h).dt = s.dt := rfl
@[simp] theorem popToPc_st (s : State) (h : 0 < s.depth.val) : (popToPc s h).st = s.st := rfl
@[simp] theorem popToPc_fb (s : State) (h : 0 < s.depth.val) : (popToPc s h).fb = s.fb := rfl
@[simp] theorem popToPc_dirty (s : State) (h : 0 < s.depth.val) : (popToPc s h).dirty = s.dirty := rfl
@[simp] theorem popToPc_halted (s : State) (h : 0 < s.depth.val) : (popToPc s h).halted = s.halted := rfl
@[simp] theorem popToPc_waitingForKey (s : State) (h : 0 < s.depth.val) : (popToPc s h).waitingForKey = s.waitingForKey := rfl
@[simp] theorem popToPc_err (s : State) (h : 0 < s.depth.val) : (popToPc s h).err = s.err := rfl
@[simp] theorem popToPc_rng (s : State) (h : 0 < s.depth.val) : (popToPc s h).rng = s.rng := rfl
@[simp] theorem popToPc_params (s : State) (h : 0 < s.depth.val) : (popToPc s h).params = s.params := rfl
@[simp] theorem popToPc_keys (s : State) (h : 0 < s.depth.val) : (popToPc s h).keys = s.keys := rfl
@[simp] theorem popToPc_events (s : State) (h : 0 < s.depth.val) : (popToPc s h).events = s.events := rfl
@[simp] theorem popToPc_result (s : State) (h : 0 < s.depth.val) : (popToPc s h).result = s.result := rfl
@[simp] theorem popToPc_presented (s : State) (h : 0 < s.depth.val) : (popToPc s h).presented = s.presented := rfl

/-! ### `togglePixel` -/

@[simp] theorem togglePixel_mem (s : State) (px : Fin 64) (py : Fin 32) : (togglePixel s px py).mem = s.mem := rfl
@[simp] theorem togglePixel_idx (s : State) (px : Fin 64) (py : Fin 32) : (togglePixel s px py).idx = s.idx := rfl
@[simp] theorem togglePixel_pc (s : State) (px : Fin 64) (py : Fin 32) : (togglePixel s px py).pc = s.pc := rfl
@[simp] theorem togglePixel_depth (s : State) (px : Fin 64) (py : Fin 32) : (togglePixel s px py).depth = s.depth := rfl
@[simp] theorem togglePixel_stack (s : State) (px : Fin 64) (py : Fin 32) : (togglePixel s px py).stack = s.stack := rfl
@[simp] theorem togglePixel_dt (s : State) (px : Fin 64) (py : Fin 32) : (togglePixel s px py).dt = s.dt := rfl
@[simp] theorem togglePixel_st (s : State) (px : Fin 64) (py : Fin 32) : (togglePixel s px py).st = s.st := rfl
@[simp] theorem togglePixel_fb (s : State) (px : Fin 64) (py : Fin 32) : (togglePixel s px py).fb = s.fb.setPixel px py (!s.fb.pixel px py) := rfl
@[simp] theorem togglePixel_dirty (s : State) (px : Fin 64) (py : Fin 32) : (togglePixel s px py).dirty = s.dirty.setPixel px py true := rfl
@[simp] theorem togglePixel_halted (s : State) (px : Fin 64) (py : Fin 32) : (togglePixel s px py).halted = s.halted := rfl
@[simp] theorem togglePixel_waitingForKey (s : State) (px : Fin 64) (py : Fin 32) : (togglePixel s px py).waitingForKey = s.waitingForKey := rfl
@[simp] theorem togglePixel_err (s : State) (px : Fin 64) (py : Fin 32) : (togglePixel s px py).err = s.err := rfl
@[simp] theorem togglePixel_rng (s : State) (px : Fin 64) (py : Fin 32) : (togglePixel s px py).rng = s.rng := rfl
@[simp] theorem togglePixel_params (s : State) (px : Fin 64) (py : Fin 32) : (togglePixel s px py).params = s.params := rfl
@[simp] theorem togglePixel_keys (s : State) (px : Fin 64) (py : Fin 32) : (togglePixel s px py).keys = s.keys := rfl
@[simp] theorem togglePixel_events (s : State) (px : Fin 64) (py : Fin 32) : (togglePixel s px py).events = s.events := rfl
@[simp] theorem togglePixel_result (s : State) (px : Fin 64) (py : Fin 32) : (togglePixel s px py).result = s.result := rfl
@[simp] theorem togglePixel_presented (s : State) (px : Fin 64) (py : Fin 32) : (togglePixel s px py).presented = s.presented := rfl

/-! ### `tickDecay` and the timers -/

/-- The timers after step 5 of Tick, by mode (R106). -/
theorem tickDecay_perTick {s : State} (h : s.params.timerMode = .perTick) : tickDecay s = timerDecay s := by
  simp [tickDecay, h]

theorem tickDecay_external {s : State} (h : s.params.timerMode = .external) : tickDecay s = s := by
  simp [tickDecay, h]

end Sys2Proof.Machine
end

