-- ==== Sys2Proof/Laws/Memory.lean ====
section
/-! SUPPORT. Memory: what a read gives after a write, and that every operation keeps the canonical form. -/

namespace Sys2Proof.Machine

variable {font : Config.Font}

theorem Memory.read_filter_ne (m : Memory) {a b : Nat} (h : b ≠ a) :
    Memory.read font (m.filter (·.1 ≠ a)) b = Memory.read font m b := by
  induction m with
  | nil => rfl
  | cons c m ih =>
    by_cases hc : c.1 = a
    · have : b ≠ c.1 := fun e => h (e.trans hc)
      simpa [List.filter_cons, hc, Memory.read, this, h] using ih
    · simp only [List.filter_cons, hc, ne_eq, not_false_eq_true, decide_true, if_true, Memory.read]
      split
      · rfl
      · simpa using ih

theorem Memory.read_filter_self (m : Memory) (a : Nat) :
    Memory.read font (m.filter (·.1 ≠ a)) a = resetByte font a := by
  induction m with
  | nil => rfl
  | cons c m ih =>
    by_cases hc : c.1 = a
    · simpa [List.filter_cons, hc] using ih
    · have : ¬ a = c.1 := fun e => hc e.symm
      simpa [List.filter_cons, hc, Memory.read, this] using ih

theorem Memory.read_insert (m : Memory) (a b : Nat) (v : Byte) (hm : ∀ c ∈ m, c.1 ≠ a) :
    Memory.read font (Memory.insert a v m) b = if b = a then v else Memory.read font m b := by
  induction m with
  | nil => simp [Memory.insert, Memory.read]
  | cons c m ih =>
    have hc : c.1 ≠ a := hm c (by simp)
    have ih := ih fun d hd => hm d (by simp [hd])
    unfold Memory.insert
    split
    · simp [Memory.read]
    · by_cases hb : b = c.1
      · simp [Memory.read, hb, hc]
      · simp [Memory.read, hb, ih]

/-- A read after a write: the value at the address written, everything else as before. -/
theorem Memory.read_write (m : Memory) (a b : Nat) (v : Byte) :
    Memory.read font (Memory.write font m a v) b = if b = a then v else Memory.read font m b := by
  have hm : ∀ c ∈ m.filter (·.1 ≠ a), c.1 ≠ a := by
    intro c hc
    simpa using (List.mem_filter.1 hc).2
  unfold Memory.write
  simp only
  split
  · next hv =>
    split
    · next hb => rw [hb, Memory.read_filter_self, hv]
    · next hb => exact Memory.read_filter_ne m hb
  · rw [Memory.read_insert _ _ _ _ hm]
    split
    · rfl
    · next hb => exact Memory.read_filter_ne m hb

/-- A read outside the bytes written. -/
theorem Memory.read_writeBytes_of_outside (bs : List Byte) (m : Memory) (a b : Nat) (h : b < a ∨ a + bs.length ≤ b) :
    Memory.read font (Memory.writeBytes font m a bs) b = Memory.read font m b := by
  induction bs generalizing m a with
  | nil => rfl
  | cons v bs ih =>
    have hb : b ≠ a := by simp only [List.length_cons] at h; omega
    unfold Memory.writeBytes
    rw [ih _ _ (by simp only [List.length_cons] at h; omega), Memory.read_write, if_neg hb]

/-- A read of the k-th byte written. -/
theorem Memory.read_writeBytes (bs : List Byte) (m : Memory) (a k : Nat) (h : k < bs.length) :
    Memory.read font (Memory.writeBytes font m a bs) (a + k) = bs[k] := by
  induction bs generalizing m a k with
  | nil => simp at h
  | cons v bs ih =>
    unfold Memory.writeBytes
    cases k with
    | zero =>
      rw [Memory.read_writeBytes_of_outside _ _ _ _ (by omega), Memory.read_write]
      simp
    | succ k =>
      have : a + (k + 1) = (a + 1) + k := by omega
      rw [this, ih _ _ _ (by simpa using h)]
      simp

theorem Memory.mem_insert {m : Memory} {a : Nat} {v : Byte} {c : Host.Cell} (h : c ∈ Memory.insert a v m) :
    c = (a, v) ∨ c ∈ m := by
  induction m with
  | nil => simpa [Memory.insert] using h
  | cons d m ih =>
    unfold Memory.insert at h
    split at h
    · simpa using h
    · rcases List.mem_cons.1 h with rfl | h
      · simp
      · rcases ih h with rfl | h <;> simp [*]

theorem Memory.pairwise_insert {m : Memory} {a : Nat} {v : Byte} (hm : m.Pairwise (·.1 < ·.1)) (ha : ∀ c ∈ m, c.1 ≠ a) :
    (Memory.insert a v m).Pairwise (·.1 < ·.1) := by
  induction m with
  | nil => simp [Memory.insert]
  | cons d m ih =>
    obtain ⟨hd, hm'⟩ := List.pairwise_cons.1 hm
    unfold Memory.insert
    split
    · next hlt =>
      refine List.pairwise_cons.2 ⟨fun c hc => ?_, hm⟩
      rcases List.mem_cons.1 hc with rfl | hc
      · exact hlt
      · exact lt_trans hlt (hd c hc)
    · next hge =>
      have hne : d.1 ≠ a := ha d (by simp)
      refine List.pairwise_cons.2 ⟨fun c hc => ?_, ih hm' fun c hc => ha c (by simp [hc])⟩
      rcases Memory.mem_insert hc with rfl | hc
      · simp only; omega
      · exact hd c hc

/-- A write in range keeps the canonical form. -/
theorem Memory.wf_write {m : Memory} {a : Nat} {v : Byte} (hm : Memory.wf font m) (ha : a < Config.memSize) :
    Memory.wf font (Memory.write font m a v) := by
  obtain ⟨hs, hc⟩ := hm
  have hf : (m.filter (·.1 ≠ a)).Pairwise (·.1 < ·.1) := hs.filter _
  have hfc : ∀ c ∈ m.filter (·.1 ≠ a), c.1 < Config.memSize ∧ c.2 ≠ resetByte font c.1 :=
    fun c h => hc c (List.mem_filter.1 h).1
  unfold Memory.write
  simp only
  split
  · exact ⟨hf, hfc⟩
  · next hv =>
    refine ⟨Memory.pairwise_insert hf fun c h => by simpa using (List.mem_filter.1 h).2, fun c h => ?_⟩
    rcases Memory.mem_insert h with rfl | h
    · exact ⟨ha, hv⟩
    · exact hfc c h

/-- Consecutive writes in range keep the canonical form. -/
theorem Memory.wf_writeBytes (bs : List Byte) {m : Memory} {a : Nat} (hm : Memory.wf font m)
    (ha : bs = [] ∨ a + bs.length ≤ Config.memSize) : Memory.wf font (Memory.writeBytes font m a bs) := by
  induction bs generalizing m a with
  | nil => exact hm
  | cons v bs ih =>
    have ha' : a + (bs.length + 1) ≤ Config.memSize := by simpa using ha
    unfold Memory.writeBytes
    exact ih (Memory.wf_write hm (by omega)) (Or.inr (by omega))

/-- Memory with nothing listed is canonical: the reset memory has the form. -/
theorem Memory.wf_nil : Memory.wf font [] := by simp [Memory.wf]

/-- The byte of an address in a state that stored bytes elsewhere. -/
theorem readByte_storeBytes_of_outside (s : State) (a b : Nat) (bs : List Byte) (h : b < a ∨ a + bs.length ≤ b) :
    (s.storeBytes a bs).readByte b = s.readByte b :=
  Memory.read_writeBytes_of_outside bs s.mem a b h

/-- The k-th byte stored. -/
theorem readByte_storeBytes (s : State) (a k : Nat) (bs : List Byte) (h : k < bs.length) :
    (s.storeBytes a bs).readByte (a + k) = bs[k] :=
  Memory.read_writeBytes bs s.mem a k h

/-- A read of a byte depends on the memory and the font alone. -/
theorem readByte_congr {s t : State} (hm : s.mem = t.mem) (hp : s.params = t.params) (a : Nat) :
    s.readByte a = t.readByte a := by
  simp [State.readByte, hm, hp]

end Sys2Proof.Machine
end

