-- ==== Sys2Proof/Laws/Registers.lean ====
section
/-! SUPPORT. Registers, one-bit maps and the ordered flag write: what a read gives after a write. -/

namespace Sys2Proof.Machine

/-- A register after a register write. -/
theorem v_setV (s : State) (r q : RegIdx) (b : Byte) : (s.setV r b).v q = if q = r then b else s.v q := by
  simp only [State.v, setV_regs, Vector.getElem_set, Fin.ext_iff, eq_comm]

@[simp] theorem v_setV_self (s : State) (r : RegIdx) (b : Byte) : (s.setV r b).v r = b := by simp [v_setV]

theorem v_setV_ne (s : State) {r q : RegIdx} (b : Byte) (h : q ≠ r) : (s.setV r b).v q = s.v q := by simp [v_setV, h]

/-- Registers read the same in states with the same register file. -/
theorem v_congr {s t : State} (h : s.regs = t.regs) (r : RegIdx) : s.v r = t.v r := by simp [State.v, h]

/-- A register after a flag write. -/
theorem v_setFlag (s : State) (f : Bool) (q : RegIdx) : (setFlag s f).v q = if q = regF then flagByte f else s.v q :=
  v_setV s regF q (flagByte f)

/-- A register after the two ordered writes of a flag-writing handler: the result in Vx, else the flag in VF (R153). -/
theorem v_setFlagThenResult (s : State) (x q : RegIdx) (f : Bool) (g : State → Byte) :
    (setFlagThenResult s x f g).v q =
      if q = x then g (lateRead s (setFlag s f)) else if q = regF then flagByte f else s.v q := by
  simp only [setFlagThenResult, v_setV, v_setFlag]

/-- A register read late, under `live`: the flag if it is VF. -/
theorem v_lateRead_live (s : State) (f : Bool) (q : RegIdx) (h : s.params.operandRead = .live) :
    (lateRead s (setFlag s f)).v q = if q = regF then flagByte f else s.v q := by
  simp [lateRead, h, v_setFlag]

/-- A register read late, under `snapshot`: as it was. -/
theorem lateRead_snapshot (s t : State) (h : s.params.operandRead = .snapshot) : lateRead s t = s := by
  simp [lateRead, h]

/-- A register other than VF reads the same under both modes. -/
theorem v_lateRead_ne (s : State) (f : Bool) {q : RegIdx} (h : q ≠ regF) : (lateRead s (setFlag s f)).v q = s.v q := by
  unfold lateRead
  split
  · simp [v_setFlag, h]
  · rfl

/-- A register after Fx65's loads: V0..V(c−1) from memory, the others as before. -/
theorem v_loadRegs (s : State) (c : Nat) (q : RegIdx) :
    (loadRegs s c).v q = if q.val < c then s.readByte (s.idx.toNat + q.val) else s.v q := by
  simp [State.v, loadRegs]

/-- The registers Fx55 stores. -/
theorem length_firstRegs (s : State) {c : Nat} (h : c ≤ 16) : (firstRegs s c).length = c := by
  simp [firstRegs, h]

theorem getElem_firstRegs (s : State) (c : Nat) (k : RegIdx) (h : k.val < (firstRegs s c).length) :
    (firstRegs s c)[k.val] = s.v k := by
  simp [firstRegs, State.v]

theorem transferCount_le (s : State) (x : RegIdx) : transferCount s x ≤ 16 := by
  unfold transferCount; split <;> omega

/-- A cell after one cell was written. -/
theorem pixel_setPixel (m : Bitmap) (px qx : Fin 64) (py qy : Fin 32) (b : Bool) :
    (m.setPixel px py b).pixel qx qy = if qx = px ∧ qy = py then b else m.pixel qx qy := by
  simp only [Bitmap.pixel, Bitmap.setPixel, Vector.getElem_set, Fin.ext_iff]
  by_cases hy : py.val = qy.val
  · by_cases hx : px.val = qx.val
    · simp [hx, hy]
    · simp [hy, hx, Ne.symm hx]
  · simp [hy, Ne.symm hy]

@[simp] theorem pixel_all (b : Bool) (px : Fin 64) (py : Fin 32) : (Bitmap.all b).pixel px py = b := by
  simp [Bitmap.all, Bitmap.pixel]

/-- Two maps with the same cells are the same map. -/
theorem Bitmap.ext_pixel {m n : Bitmap} (h : ∀ px py, m.pixel px py = n.pixel px py) : m = n := by
  apply Vector.ext
  intro y hy
  apply Vector.ext
  intro x hx
  exact h ⟨x, hx⟩ ⟨y, hy⟩

end Sys2Proof.Machine
end

