-- ==== Sys2Proof/Laws/Operations.lean ====
section
/-! SUPPORT. One lemma per shared operation that says all it can do: the endings, the fault entry, the range check, the fetch. -/

namespace Sys2Proof.Machine

/-- Counting down is subtracting 1 where that is possible (R239, R276). -/
theorem countDown_eq (t : Byte) : countDown t = BitVec.ofNat 8 (t.toNat - 1) := by
  unfold countDown
  split
  · next h => simp [h]
  · next h =>
    have : t.toNat ≠ 0 := fun e => h (BitVec.eq_of_toNat_eq (by simpa using e))
    apply BitVec.eq_of_toNat_eq
    have := t.isLt
    have one : (1 : Byte).toNat = 1 := rfl
    rw [BitVec.toNat_sub, BitVec.toNat_ofNat, one]
    omega

/-- Step 5 of Tick, field by field. -/
theorem tickDecay_eq (s : State) :
    tickDecay s = { s with
      dt := timerAfterTick s.params.timerMode s.dt
      st := timerAfterTick s.params.timerMode s.st } := by
  unfold tickDecay timerAfterTick
  split <;> simp [timerDecay, countDown_eq, *]

/-- A normal ending: the one next state it answers. -/
theorem endNormal_eq (s : State) : endNormal s = .next (completed s) := by
  simp [endNormal, returnOk, advance, tickDecay_eq, completed, completedAt]

/-- A pc-set ending: the one next state it answers. -/
theorem endPcSet_eq (s : State) : endPcSet s = .next (completedAt s.pc s) := by
  simp [endPcSet, returnOk, tickDecay_eq, completedAt]

/-- An enter-wait ending: the result alone changes. -/
theorem endWait_eq (s : State) : endWait s = .next { s with result := some .ok } := rfl

/-- The fault entry: the one next state it answers. -/
theorem raise_eq (kind : FaultKind) (info : Word) (s : State) : raise kind info s = .next (faulted kind info s) := rfl

/-- The range check passes exactly when there is nothing to access or the last address is at most 0xFFF. -/
theorem rangeFault_eq_none {a c : Nat} : rangeFault a c = none ↔ c = 0 ∨ a + c ≤ 0x1000 := by
  unfold rangeFault
  split <;> simp <;> omega

/-- The range check fails at the first address above 0xFFF. -/
theorem rangeFault_eq_some {a c b : Nat} :
    rangeFault a c = some b ↔ 0 < c ∧ 0x1000 < a + c ∧ b = max a 0x1000 := by
  unfold rangeFault
  split <;> simp <;> omega

/-- In range, the body runs. -/
theorem withRangeCheck_of_inRange {c : Nat} {s : State} (body : State → Result) (h : c = 0 ∨ s.idx.toNat + c ≤ 0x1000) :
    withRangeCheck c s body = body s := by
  simp [withRangeCheck, rangeFault_eq_none.2 h]

/-- Out of range, AddressOutOfRange is raised with the first failing address. -/
theorem withRangeCheck_of_outOfRange {c : Nat} {s : State} {a : Word} (body : State → Result) (h : OutOfRange s c a) :
    withRangeCheck c s body = .next (faulted .addressOutOfRange a s) := by
  obtain ⟨hc, hr, ha⟩ := h
  have : rangeFault s.idx.toNat c = some a.toNat := rangeFault_eq_some.2 ⟨hc, hr, ha⟩
  simp [withRangeCheck, this, raise_eq]

/-- Either all accesses are in range, or there is a first failing address. -/
theorem inRange_or_outOfRange (s : State) (c : Nat) : (c = 0 ∨ s.idx.toNat + c ≤ 0x1000) ∨ ∃ a, OutOfRange s c a := by
  by_cases h : c = 0 ∨ s.idx.toNat + c ≤ 0x1000
  · exact .inl h
  · refine .inr ⟨BitVec.ofNat 16 (max s.idx.toNat 0x1000), by omega, by omega, ?_⟩
    have := s.idx.isLt
    rw [BitVec.toNat_ofNat]
    omega

/-- Big-endian assembly, as a number (R65). -/
theorem wordOfBytes_eq (hi lo : Byte) : wordOfBytes hi lo = BitVec.ofNat 16 (hi.toNat * 256 + lo.toNat) := by
  apply BitVec.eq_of_toNat_eq
  have h1 := hi.isLt
  have h2 := lo.isLt
  simp only [wordOfBytes, BitVec.toNat_or, BitVec.toNat_shiftLeft, BitVec.toNat_setWidth, BitVec.toNat_ofNat]
  have e1 : (hi.toNat % 2 ^ 16) <<< 8 % 2 ^ 16 = hi.toNat <<< 8 := by
    simp only [Nat.shiftLeft_eq]; omega
  have e2 : lo.toNat % 2 ^ 16 = lo.toNat := by omega
  rw [e1, e2, ← Nat.shiftLeft_add_eq_or_of_lt h2, Nat.shiftLeft_eq]
  omega

/-- The fetch, in range. -/
theorem fetch_of_inRange {s : State} (h : s.pc.toNat ≤ 0xFFE) : fetch s = .ok (wordAtPc s) := by
  unfold fetch wordAtPc
  rw [if_neg (by omega), if_neg (by omega), wordOfBytes_eq]

/-- The fetch, out of range (R103). -/
theorem fetch_of_outOfRange {s : State} (h : 0xFFF ≤ s.pc.toNat) : fetch s = .error (max s.pc.toNat 0x1000) := by
  unfold fetch
  split
  · rw [Nat.max_eq_left (by omega)]
  · rw [if_pos (by omega), Nat.max_eq_right (by omega)]

/-- The lowest key down: down itself, and none below it is (R213). -/
theorem lowestKey_eq_some {s : State} {k : RegIdx} :
    lowestKey s = some k ↔ s.keys.getLsbD k.val = true ∧ ∀ j : RegIdx, j < k → s.keys.getLsbD j.val = false := by
  unfold lowestKey keyDown
  rw [List.find?_eq_some_iff_getElem]
  constructor
  · rintro ⟨hk, i, hi, he, hlt⟩
    have hik : i = k.val := by simpa [Fin.ext_iff] using he
    refine ⟨hk, fun j hj => ?_⟩
    simpa using hlt j.val (by rw [hik]; exact hj)
  · rintro ⟨hk, hlt⟩
    refine ⟨hk, k.val, by simp, by simp, fun j hj => ?_⟩
    have : j < 16 := by omega
    simpa using hlt ⟨j, this⟩ hj

/-- No key is found exactly when no level is up. -/
theorem lowestKey_eq_none {s : State} : lowestKey s = none ↔ s.keys = 0 := by
  simp only [lowestKey, keyDown, List.find?_eq_none, List.mem_finRange, forall_const, Bool.not_eq_true]
  constructor
  · intro h
    apply BitVec.eq_of_getLsbD_eq
    intro i hi
    simpa using h ⟨i, hi⟩
  · rintro h j
    simp [h]

/-- The no-borrow flag, as a number (R147). -/
theorem flagByte_noBorrow (p : Config.Params) (a b : Byte) :
    (flagByte (noBorrow p a b)).toNat = borrowFlag p a.toNat b.toNat := by
  unfold noBorrow borrowFlag flagByte
  rcases h : p.subFlag with _ | _
  · by_cases hlt : b.toNat < a.toNat <;> simp [hlt]
  · by_cases hle : b.toNat ≤ a.toNat
    · have : b.toNat < a.toNat ∨ b.toNat = a.toNat := by omega
      simp [hle, this]
    · have : ¬ (b.toNat < a.toNat ∨ b.toNat = a.toNat) := by omega
      simp [hle, this]

/-- The carry flag, as a number (R146). -/
theorem flagByte_carry (a b : Byte) : (flagByte (carry a b)).toNat = if 255 < a.toNat + b.toNat then 1 else 0 := by
  unfold carry flagByte
  by_cases h : 255 < a.toNat + b.toNat <;> simp [h]

/-- The bits the shifts move out, as numbers, and what a second shift leaves of them (R148, R150). -/
theorem flagByte_bit0 (a : Byte) : (flagByte (bit0 a)).toNat = a.toNat % 2 := by revert a; decide

theorem flagByte_bit7 (a : Byte) : (flagByte (bit7 a)).toNat = a.toNat / 128 := by revert a; decide

theorem flagByte_shiftRight (f : Bool) : flagByte f >>> 1 = 0 := by revert f; decide

theorem flagByte_shiftLeft (f : Bool) : (flagByte f <<< 1).toNat = 2 * (flagByte f).toNat := by revert f; decide

/-- Byte subtraction as the spec writes it: `trunc8(a + 256 − b)` (R147). -/
theorem toNat_byte_sub (a b : Byte) : (a - b).toNat = (a.toNat + 256 - b.toNat) % 256 := by
  have := b.isLt
  rw [BitVec.toNat_sub]
  omega

/-- The key a byte names. -/
theorem namedKey_eq_some {b : Byte} {k : RegIdx} : namedKey b = some k ↔ b.toNat = k.val := by
  unfold namedKey
  split
  · simp [Fin.ext_iff]
  · simp; omega

theorem namedKey_eq_none {b : Byte} : namedKey b = none ↔ 0x0F < b.toNat := by
  unfold namedKey
  split <;> simp <;> omega

end Sys2Proof.Machine
end

