-- ==== Sys2Proof/Laws/Display.lean ====
section
/-! SUPPORT. The sprite engine: a draw changes VF, FB and DIRTY alone. -/

namespace Sys2Proof.Machine

theorem OnlyFlagAndScreenDiffer.refl (s : State) : OnlyFlagAndScreenDiffer s s := ⟨rfl, fun _ _ => rfl⟩

theorem OnlyFlagAndScreenDiffer.trans {s t u : State} (h : OnlyFlagAndScreenDiffer s t) (k : OnlyFlagAndScreenDiffer t u) :
    OnlyFlagAndScreenDiffer s u := by
  refine ⟨?_, fun r hr => (k.2 r hr).trans (h.2 r hr)⟩
  rw [k.1, h.1]

/-- A fold keeps what each of its steps keeps. -/
theorem OnlyFlagAndScreenDiffer.foldl {α : Type} {f : State → α → State}
    (hf : ∀ s a, OnlyFlagAndScreenDiffer s (f s a)) (l : List α) (s : State) :
    OnlyFlagAndScreenDiffer s (l.foldl f s) := by
  induction l generalizing s with
  | nil => exact .refl s
  | cons a l ih => exact (hf s a).trans (ih (f s a))

theorem setFlag_frame (s : State) (f : Bool) : OnlyFlagAndScreenDiffer s (setFlag s f) :=
  ⟨rfl, fun r hr => by simp [v_setFlag, hr]⟩

/-- A register after a toggle: VF becomes 1 on a collision, nothing else changes. -/
theorem v_togglePixel (s : State) (px : Fin 64) (py : Fin 32) (r : RegIdx) :
    (togglePixel s px py).v r = if r = regF ∧ s.fb.pixel px py = true then 0x01 else s.v r := by
  have : (togglePixel s px py).v r = (if s.fb.pixel px py = true then setFlag s true else s).v r := by
    unfold togglePixel State.v
    simp only
    split <;> rfl
  rw [this]
  by_cases hc : s.fb.pixel px py = true <;> by_cases hr : r = regF <;> simp [hc, hr, v_setFlag, flagByte]

theorem togglePixel_frame (s : State) (px : Fin 64) (py : Fin 32) : OnlyFlagAndScreenDiffer s (togglePixel s px py) :=
  ⟨rfl, fun r hr => by simp [v_togglePixel, hr]⟩

theorem drawPixel_frame (before : State) (x y : RegIdx) (row : Byte) (i : Nat) (s : State) (j : Nat) :
    OnlyFlagAndScreenDiffer s (drawPixel before x y row i s j) := by
  unfold drawPixel
  split
  · exact togglePixel_frame ..
  · exact .refl s

theorem drawRow_frame (before : State) (x y : RegIdx) (s : State) (i : Nat) :
    OnlyFlagAndScreenDiffer s (drawRow before x y s i) :=
  .foldl (fun s j => drawPixel_frame before x y _ i s j) _ s

/-- A draw changes VF, FB and DIRTY alone (R191: "I and memory are not changed"). -/
theorem drawSprite_frame (x y : RegIdx) (n : Nat) (s : State) : OnlyFlagAndScreenDiffer s (drawSprite x y n s) :=
  (setFlag_frame s false).trans (.foldl (fun t i => drawRow_frame s x y t i) _ _)

/-! The fields a draw leaves alone. -/

@[simp] theorem drawSprite_mem (x y : RegIdx) (n : Nat) (s : State) : (drawSprite x y n s).mem = s.mem := by
  rw [(drawSprite_frame x y n s).1]
@[simp] theorem drawSprite_idx (x y : RegIdx) (n : Nat) (s : State) : (drawSprite x y n s).idx = s.idx := by
  rw [(drawSprite_frame x y n s).1]
@[simp] theorem drawSprite_pc (x y : RegIdx) (n : Nat) (s : State) : (drawSprite x y n s).pc = s.pc := by
  rw [(drawSprite_frame x y n s).1]
@[simp] theorem drawSprite_depth (x y : RegIdx) (n : Nat) (s : State) : (drawSprite x y n s).depth = s.depth := by
  rw [(drawSprite_frame x y n s).1]
@[simp] theorem drawSprite_stack (x y : RegIdx) (n : Nat) (s : State) : (drawSprite x y n s).stack = s.stack := by
  rw [(drawSprite_frame x y n s).1]
@[simp] theorem drawSprite_dt (x y : RegIdx) (n : Nat) (s : State) : (drawSprite x y n s).dt = s.dt := by
  rw [(drawSprite_frame x y n s).1]
@[simp] theorem drawSprite_st (x y : RegIdx) (n : Nat) (s : State) : (drawSprite x y n s).st = s.st := by
  rw [(drawSprite_frame x y n s).1]
@[simp] theorem drawSprite_halted (x y : RegIdx) (n : Nat) (s : State) : (drawSprite x y n s).halted = s.halted := by
  rw [(drawSprite_frame x y n s).1]
@[simp] theorem drawSprite_waitingForKey (x y : RegIdx) (n : Nat) (s : State) : (drawSprite x y n s).waitingForKey = s.waitingForKey := by
  rw [(drawSprite_frame x y n s).1]
@[simp] theorem drawSprite_err (x y : RegIdx) (n : Nat) (s : State) : (drawSprite x y n s).err = s.err := by
  rw [(drawSprite_frame x y n s).1]
@[simp] theorem drawSprite_rng (x y : RegIdx) (n : Nat) (s : State) : (drawSprite x y n s).rng = s.rng := by
  rw [(drawSprite_frame x y n s).1]
@[simp] theorem drawSprite_params (x y : RegIdx) (n : Nat) (s : State) : (drawSprite x y n s).params = s.params := by
  rw [(drawSprite_frame x y n s).1]
@[simp] theorem drawSprite_keys (x y : RegIdx) (n : Nat) (s : State) : (drawSprite x y n s).keys = s.keys := by
  rw [(drawSprite_frame x y n s).1]
@[simp] theorem drawSprite_events (x y : RegIdx) (n : Nat) (s : State) : (drawSprite x y n s).events = s.events := by
  rw [(drawSprite_frame x y n s).1]
@[simp] theorem drawSprite_result (x y : RegIdx) (n : Nat) (s : State) : (drawSprite x y n s).result = s.result := by
  rw [(drawSprite_frame x y n s).1]
@[simp] theorem drawSprite_presented (x y : RegIdx) (n : Nat) (s : State) : (drawSprite x y n s).presented = s.presented := by
  rw [(drawSprite_frame x y n s).1]

end Sys2Proof.Machine
end

