-- ==== Sys2Proof/Laws/Exec.lean ====
section
/-! SUPPORT. What a step can do, said once: the inversion lemmas of `exec`, `tick` and `step`.  Later proofs split on these and do
not unfold the meanings again. -/

namespace Sys2Proof.Machine

/-- `u` is what the handler of `i` leaves of `s` when it raises nothing, before the decay and the advance. -/
def HandlerLeaves (i : Instr) (s u : State) : Prop :=
  match i with
  | .cls => u = { s with fb := Bitmap.all false, dirty := Bitmap.all true }
  | .ret => ∃ h, u = popToPc s h
  | .jmpAddr nnn => u = { s with pc := nnn.setWidth 16 }
  | .callAddr nnn => ∃ h, u = { push s (s.pc.setWidth 12) h with pc := nnn.setWidth 16 }
  | .jpV0Addr nnn => u = { s with pc := nnn.setWidth 16 + (s.v 0).setWidth 16 }
  | .seImm _ _ | .sneImm _ _ | .seReg _ _ | .sneReg _ _ | .skp _ | .sknp _ => ∃ c, u = skipIf c s
  | .ldImm x _ | .addImm x _ | .ldReg x _ | .orReg x _ | .andReg x _ | .xorReg x _ | .ldVxDt x | .ldVxK x => ∃ b, u = s.setV x b
  | .addReg x _ | .sub x _ | .shr x _ | .subn x _ | .shl x _ => ∃ f g, u = setFlagThenResult s x f g
  | .rnd x kk => u = { s with rng := (Config.rngNext s.rng).2 }.setV x ((Config.rngNext s.rng).1 &&& kk)
  | .drw x y n => u = drawSprite x y n s
  | .ldIAddr _ | .addIVx _ | .ldFVx _ => ∃ a, u = { s with idx := a }
  | .ldDtVx x => u = { s with dt := s.v x }
  | .ldStVx x => u = { s with st := s.v x }
  | .ldBVx x => s.idx.toNat + 3 ≤ 0x1000 ∧ u = s.storeBytes s.idx.toNat (bcdDigits (s.v x))
  | .ldIVx x =>
    (transferCount s x = 0 ∨ s.idx.toNat + transferCount s x ≤ 0x1000) ∧
      u = s.storeBytes s.idx.toNat (firstRegs s (transferCount s x))
  | .ldVxI x => u = loadRegs s (transferCount s x)

/-- PC after an instruction whose handler left `u`: `u`'s own PC if the handler set it, else 2 on (R107). -/
def pcAfter (i : Instr) (u : State) : Word :=
  match i with
  | .jmpAddr _ | .callAddr _ | .jpV0Addr _ => u.pc
  | .ret => if u.params.retAdvance then u.pc + 2 else u.pc
  | _ => u.pc + 2

/-- What `exec` can answer: a fault, a key-wait entered, or the handler's state with the tick completed. -/
def ExecAnswers (i : Instr) (s t : State) : Prop :=
  (∃ kind info, Raises i s kind info ∧ t = faulted kind info s) ∨
  (∃ x, i = .ldVxK x ∧ s.keys = 0 ∧ t = { s with waitingForKey := some x, result := some .ok }) ∨
  (∃ u, HandlerLeaves i s u ∧ t = completedAt (pcAfter i u) u)

theorem execAnswers_of_endNormal {i : Instr} {s t u : State} (hu : HandlerLeaves i s u) (hp : pcAfter i u = u.pc + 2)
    (h : endNormal u = .next t) : ExecAnswers i s t := by
  rw [endNormal_eq] at h
  injection h with h
  exact .inr (.inr ⟨u, hu, by rw [hp, ← h]; rfl⟩)

theorem execAnswers_of_endPcSet {i : Instr} {s t u : State} (hu : HandlerLeaves i s u) (hp : pcAfter i u = u.pc)
    (h : endPcSet u = .next t) : ExecAnswers i s t := by
  rw [endPcSet_eq] at h
  injection h with h
  exact .inr (.inr ⟨u, hu, by rw [hp, ← h]⟩)

theorem execAnswers_of_raise {i : Instr} {s t : State} {kind : FaultKind} {info : Word} (hr : Raises i s kind info)
    (h : raise kind info s = .next t) : ExecAnswers i s t := by
  rw [raise_eq] at h
  injection h with h
  exact .inl ⟨kind, info, hr, h.symm⟩

/-- A range-checked handler raises at the first failing address, or runs its body in range. -/
theorem execAnswers_of_rangeCheck {i : Instr} {s t : State} {c : Nat} {body : State → Result}
    (hr : ∀ a, OutOfRange s c a → Raises i s .addressOutOfRange a)
    (hb : c = 0 ∨ s.idx.toNat + c ≤ 0x1000 → body s = .next t → ExecAnswers i s t)
    (h : withRangeCheck c s body = .next t) : ExecAnswers i s t := by
  rcases inRange_or_outOfRange s c with hc | ⟨a, hc⟩
  · rw [withRangeCheck_of_inRange _ hc] at h
    exact hb hc h
  · rw [withRangeCheck_of_outOfRange _ hc] at h
    injection h with h
    exact .inl ⟨_, a, hr a hc, h.symm⟩

theorem toNat_setWidth_byte (b : Byte) : (b.setWidth 16).toNat = b.toNat := by
  have := b.isLt
  rw [BitVec.toNat_setWidth]
  omega

theorem execRet_answers {s t : State} (h : execRet s = .next t) : ExecAnswers .ret s t := by
  unfold execRet at h
  split at h
  · next hd =>
    split at h
    · next ha => exact execAnswers_of_endNormal ⟨hd, rfl⟩ (by simp [pcAfter, ha]) h
    · next ha => exact execAnswers_of_endPcSet ⟨hd, rfl⟩ (by simp [pcAfter, ha]) h
  · next hd => exact execAnswers_of_raise ⟨by omega, rfl, rfl⟩ h

theorem execCallAddr_answers {s t : State} {nnn : Addr} (h : execCallAddr nnn s = .next t) :
    ExecAnswers (.callAddr nnn) s t := by
  unfold execCallAddr at h
  split at h
  · next hd => exact execAnswers_of_endPcSet ⟨hd, rfl⟩ rfl h
  · next hd => exact execAnswers_of_raise ⟨by omega, rfl, rfl⟩ h

theorem execSkp_answers {s t : State} {x : RegIdx} (h : execSkp x s = .next t) : ExecAnswers (.skp x) s t := by
  unfold execSkp at h
  split at h
  · exact execAnswers_of_endNormal ⟨_, rfl⟩ rfl h
  · next hn => exact execAnswers_of_raise ⟨namedKey_eq_none.1 hn, rfl, toNat_setWidth_byte _⟩ h

theorem execSknp_answers {s t : State} {x : RegIdx} (h : execSknp x s = .next t) : ExecAnswers (.sknp x) s t := by
  unfold execSknp at h
  split at h
  · exact execAnswers_of_endNormal ⟨_, rfl⟩ rfl h
  · next hn => exact execAnswers_of_raise ⟨namedKey_eq_none.1 hn, rfl, toNat_setWidth_byte _⟩ h

theorem execLdVxK_answers {s t : State} {x : RegIdx} (h : execLdVxK x s = .next t) : ExecAnswers (.ldVxK x) s t := by
  unfold execLdVxK at h
  split at h
  · exact execAnswers_of_endNormal ⟨_, rfl⟩ rfl h
  · next hk =>
    rw [endWait_eq] at h
    injection h with h
    exact .inr (.inl ⟨x, rfl, lowestKey_eq_none.1 hk, h.symm⟩)

theorem execLdFVx_answers {s t : State} {x : RegIdx} (h : execLdFVx x s = .next t) : ExecAnswers (.ldFVx x) s t := by
  unfold execLdFVx at h
  split at h
  · next hv => exact execAnswers_of_raise ⟨hv, rfl, toNat_setWidth_byte _⟩ h
  · exact execAnswers_of_endNormal ⟨_, rfl⟩ rfl h

theorem execDrw_answers {s t : State} {x y : RegIdx} {n : Nat} (h : execDrw x y n s = .next t) :
    ExecAnswers (.drw x y n) s t := by
  unfold execDrw at h
  exact execAnswers_of_rangeCheck (fun a ha => ⟨ha, rfl⟩)
    (fun _ hb => execAnswers_of_endNormal (u := drawSprite x y n s) rfl rfl hb) h

theorem execLdBVx_answers {s t : State} {x : RegIdx} (h : execLdBVx x s = .next t) : ExecAnswers (.ldBVx x) s t := by
  unfold execLdBVx at h
  exact execAnswers_of_rangeCheck (fun a ha => ⟨ha, rfl⟩)
    (fun hc hb => execAnswers_of_endNormal ⟨by omega, rfl⟩ rfl hb) h

theorem execLdIVx_answers {s t : State} {x : RegIdx} (h : execLdIVx x s = .next t) : ExecAnswers (.ldIVx x) s t := by
  unfold execLdIVx at h
  exact execAnswers_of_rangeCheck (fun a ha => ⟨ha, rfl⟩) (fun hc hb => execAnswers_of_endNormal ⟨hc, rfl⟩ rfl hb) h

theorem execLdVxI_answers {s t : State} {x : RegIdx} (h : execLdVxI x s = .next t) : ExecAnswers (.ldVxI x) s t := by
  unfold execLdVxI at h
  exact execAnswers_of_rangeCheck (fun a ha => ⟨ha, rfl⟩)
    (fun _ hb => execAnswers_of_endNormal (u := loadRegs s (transferCount s x)) rfl rfl hb) h

/-- Everything an instruction can do. -/
theorem exec_cases {i : Instr} {s t : State} (h : exec i s = .next t) : ExecAnswers i s t := by
  cases i with
  | cls => exact execAnswers_of_endNormal rfl rfl h
  | ret => exact execRet_answers h
  | jmpAddr nnn => exact execAnswers_of_endPcSet rfl rfl h
  | callAddr nnn => exact execCallAddr_answers h
  | jpV0Addr nnn => exact execAnswers_of_endPcSet rfl rfl h
  | seImm x kk => exact execAnswers_of_endNormal ⟨_, rfl⟩ rfl h
  | sneImm x kk => exact execAnswers_of_endNormal ⟨_, rfl⟩ rfl h
  | seReg x y => exact execAnswers_of_endNormal ⟨_, rfl⟩ rfl h
  | sneReg x y => exact execAnswers_of_endNormal ⟨_, rfl⟩ rfl h
  | ldImm x kk => exact execAnswers_of_endNormal ⟨_, rfl⟩ rfl h
  | addImm x kk => exact execAnswers_of_endNormal ⟨_, rfl⟩ rfl h
  | ldReg x y => exact execAnswers_of_endNormal ⟨_, rfl⟩ rfl h
  | orReg x y => exact execAnswers_of_endNormal ⟨_, rfl⟩ rfl h
  | andReg x y => exact execAnswers_of_endNormal ⟨_, rfl⟩ rfl h
  | xorReg x y => exact execAnswers_of_endNormal ⟨_, rfl⟩ rfl h
  | addReg x y => exact execAnswers_of_endNormal ⟨_, _, rfl⟩ rfl h
  | sub x y => exact execAnswers_of_endNormal ⟨_, _, rfl⟩ rfl h
  | shr x y => exact execAnswers_of_endNormal ⟨_, _, rfl⟩ rfl h
  | subn x y => exact execAnswers_of_endNormal ⟨_, _, rfl⟩ rfl h
  | shl x y => exact execAnswers_of_endNormal ⟨_, _, rfl⟩ rfl h
  | rnd x kk => exact execAnswers_of_endNormal rfl rfl h
  | drw x y n => exact execDrw_answers h
  | ldIAddr nnn => exact execAnswers_of_endNormal ⟨_, rfl⟩ rfl h
  | addIVx x => exact execAnswers_of_endNormal ⟨_, rfl⟩ rfl h
  | ldFVx x => exact execLdFVx_answers h
  | ldBVx x => exact execLdBVx_answers h
  | ldIVx x => exact execLdIVx_answers h
  | ldVxI x => exact execLdVxI_answers h
  | skp x => exact execSkp_answers h
  | sknp x => exact execSknp_answers h
  | ldVxK x => exact execLdVxK_answers h
  | ldVxDt x => exact execAnswers_of_endNormal ⟨_, rfl⟩ rfl h
  | ldDtVx x => exact execAnswers_of_endNormal rfl rfl h
  | ldStVx x => exact execAnswers_of_endNormal rfl rfl h

/-- A step that starts a Tick is that Tick. -/
theorem step_of_tickStarts {s t : State} (h : TickStarts s t) : step s = tick t := by
  rcases h with ⟨h, rfl⟩ | ⟨keys, rest, h, rfl⟩ <;> simp [step, serveNext, serve, h]

/-- Starting a Tick writes KEYS and the queue alone. -/
theorem TickStarts.eq {s t : State} (h : TickStarts s t) : t = { s with keys := t.keys, events := t.events } := by
  rcases h with ⟨-, rfl⟩ | ⟨keys, rest, -, rfl⟩ <;> rfl

/-- Everything a Tick can do, in the order of R233. -/
theorem tick_cases {s t : State} (h : tick s = .next t) :
    (s.halted = true ∧ t = { s with result := some (.halted s.err) }) ∨
    (s.halted = false ∧ ∃ r, s.waitingForKey = some r ∧
      ((∃ k, IsLowestKey s.keys k ∧ t = completed { s.setV r (keyByte k) with waitingForKey := none }) ∨
        (s.keys = 0 ∧ t = { s with result := some .ok }))) ∨
    (s.halted = false ∧ s.waitingForKey = none ∧
      ((∃ a, 0xFFF ≤ s.pc.toNat ∧ t = faulted .addressOutOfRange a s) ∨
        (s.pc.toNat ≤ 0xFFE ∧ t = faulted .unknownOpcode (wordAtPc s) s) ∨
        (s.pc.toNat ≤ 0xFFE ∧ ∃ i, decodeWord (wordAtPc s) = .ok i ∧ exec i s = .next t))) := by
  unfold tick at h
  split at h
  · next hh =>
    injection h with h
    exact .inl ⟨hh, h.symm⟩
  · next hh =>
    have hh : s.halted = false := by simpa using hh
    split at h
    · next r hr =>
      refine .inr (.inl ⟨hh, r, hr, ?_⟩)
      unfold keyWaitTick at h
      split at h
      · next k hk =>
        rw [endNormal_eq] at h
        injection h with h
        exact .inl ⟨k, lowestKey_eq_some.1 hk, h.symm⟩
      · next hk =>
        rw [endWait_eq] at h
        injection h with h
        exact .inr ⟨lowestKey_eq_none.1 hk, h.symm⟩
    · next hr =>
      refine .inr (.inr ⟨hh, hr, ?_⟩)
      by_cases hp : s.pc.toNat ≤ 0xFFE
      · rw [fetch_of_inRange hp] at h
        simp only at h
        split at h
        · rw [raise_eq] at h
          injection h with h
          exact .inr (.inl ⟨hp, h.symm⟩)
        · next i hi => exact .inr (.inr ⟨hp, i, hi, h⟩)
      · rw [fetch_of_outOfRange (by omega)] at h
        simp only [raise_eq] at h
        injection h with h
        exact .inl ⟨_, by omega, h.symm⟩

/-- Everything a step can do when it answers a next state, by event. -/
theorem step_cases {s t : State} (h : step s = .next t) :
    (∃ u, TickStarts s u ∧ tick u = .next t) ∨
    (∃ rest, s.events = .pause :: rest ∧ t = { s with events := rest, halted := true }) ∨
    (∃ rest, s.events = .present :: rest ∧
      t = { s with events := rest, presented := some (s.fb, s.dirty), dirty := Bitmap.all false }) ∨
    (∃ rest, s.events = .timerStrobe :: rest ∧ s.params.timerMode = .external ∧
      t = if s.halted then { s with events := rest } else timerDecay { s with events := rest }) ∨
    (∃ rom rest, s.events = .reset rom :: rest ∧ rom.length ≤ Config.romMax ∧
      t = { (State.powerOn s.params).storeBytes Config.programBase rom with
        keys := s.keys, events := rest, result := s.result }) := by
  unfold step serveNext at h
  rcases he : s.events with _ | ⟨e, rest⟩ <;> rw [he] at h <;> simp only at h
  · exact .inl ⟨s, .inl ⟨he, rfl⟩, h⟩
  · cases e with
    | tick keys => exact .inl ⟨_, .inr ⟨keys, rest, he, rfl⟩, h⟩
    | pause =>
      injection h with h
      exact .inr (.inl ⟨rest, rfl, h.symm⟩)
    | present =>
      injection h with h
      exact .inr (.inr (.inl ⟨rest, rfl, h.symm⟩))
    | timerStrobe =>
      simp only [serve, timerStrobe] at h
      split at h
      · next hm =>
        injection h with h
        exact .inr (.inr (.inr (.inl ⟨rest, rfl, hm, h.symm⟩)))
      · simp at h
    | reset rom =>
      simp only [serve, resetEvent] at h
      split at h
      · next hm =>
        injection h with h
        exact .inr (.inr (.inr (.inr ⟨rom, rest, rfl, hm, h.symm⟩)))
      · simp at h

end Sys2Proof.Machine
end

