-- ==== Sys2Proof/Laws/PerInstr.lean ====
section
/-! SUPPORT. Statements about every instruction as syntax, one lemma per constructor.  Family `FixedBits`: the word of an
instruction carries the fixed bits of its row of 30_encoding.md R86, at every value of its operands. -/

namespace Sys2Proof.Laws

/-- Masking a concatenation masks its parts. -/
theorem append_and_append {m n : Nat} (a c : BitVec m) (b d : BitVec n) : (a ++ b) &&& (c ++ d) = (a &&& c) ++ (b &&& d) := by
  apply BitVec.eq_of_getLsbD_eq
  intro i hi
  simp only [BitVec.getLsbD_and, BitVec.getLsbD_append]
  split <;> rfl

theorem and_ones4 (a : BitVec 4) : a &&& 0xF#4 = a := by
  have : (0xF#4) = BitVec.allOnes 4 := rfl
  rw [this, BitVec.and_allOnes]

theorem and_ones8 (a : BitVec 8) : a &&& 0xFF#8 = a := by
  have : (0xFF#8) = BitVec.allOnes 8 := rfl
  rw [this, BitVec.and_allOnes]

/-! The formats of R83, masked to their literal digits. -/

theorem formatA_and (op : BitVec 4) (nnn : Addr) : formatA op nnn &&& 0xF000 = op ++ 0#12 := by
  have : (0xF000 : Word) = 0xF#4 ++ 0#12 := rfl
  rw [this, formatA, append_and_append, and_ones4, BitVec.and_zero]

theorem formatXK_and (op : BitVec 4) (x : RegIdx) (kk : Byte) : formatXK op x kk &&& 0xF000 = op ++ 0#4 ++ 0#8 := by
  have : (0xF000 : Word) = 0xF#4 ++ 0#4 ++ 0#8 := rfl
  rw [this, formatXK, append_and_append, append_and_append, and_ones4, BitVec.and_zero, BitVec.and_zero]

theorem formatXY_and (op : BitVec 4) (x y : RegIdx) (f : BitVec 4) :
    formatXY op x y f &&& 0xF00F = op ++ 0#4 ++ 0#4 ++ f := by
  have : (0xF00F : Word) = 0xF#4 ++ 0#4 ++ 0#4 ++ 0xF#4 := rfl
  rw [this, formatXY, append_and_append, append_and_append, append_and_append, and_ones4, and_ones4, BitVec.and_zero,
    BitVec.and_zero]

theorem formatXYN_and (op : BitVec 4) (x y : RegIdx) (n : BitVec 4) :
    formatXY op x y n &&& 0xF000 = op ++ 0#4 ++ 0#4 ++ 0#4 := by
  have : (0xF000 : Word) = 0xF#4 ++ 0#4 ++ 0#4 ++ 0#4 := rfl
  rw [this, formatXY, append_and_append, append_and_append, append_and_append, and_ones4, BitVec.and_zero, BitVec.and_zero,
    BitVec.and_zero]

theorem formatX_and (op : BitVec 4) (x : RegIdx) (ff : Byte) : formatX op x ff &&& 0xF0FF = op ++ 0#4 ++ ff := by
  have : (0xF0FF : Word) = 0xF#4 ++ 0#4 ++ 0xFF#8 := rfl
  rw [this, formatX, append_and_append, append_and_append, and_ones4, and_ones8, BitVec.and_zero]

/-- The mask M and the pattern P of an instruction's row (R86). -/
def fixedBits : Instr → Word × Word
  | .cls => (0xFFFF, 0x00E0)
  | .ret => (0xFFFF, 0x00EE)
  | .jmpAddr _ => (0xF000, 0x1000)
  | .callAddr _ => (0xF000, 0x2000)
  | .seImm _ _ => (0xF000, 0x3000)
  | .sneImm _ _ => (0xF000, 0x4000)
  | .seReg _ _ => (0xF00F, 0x5000)
  | .ldImm _ _ => (0xF000, 0x6000)
  | .addImm _ _ => (0xF000, 0x7000)
  | .ldReg _ _ => (0xF00F, 0x8000)
  | .orReg _ _ => (0xF00F, 0x8001)
  | .andReg _ _ => (0xF00F, 0x8002)
  | .xorReg _ _ => (0xF00F, 0x8003)
  | .addReg _ _ => (0xF00F, 0x8004)
  | .sub _ _ => (0xF00F, 0x8005)
  | .shr _ _ => (0xF00F, 0x8006)
  | .subn _ _ => (0xF00F, 0x8007)
  | .shl _ _ => (0xF00F, 0x800E)
  | .sneReg _ _ => (0xF00F, 0x9000)
  | .ldIAddr _ => (0xF000, 0xA000)
  | .jpV0Addr _ => (0xF000, 0xB000)
  | .rnd _ _ => (0xF000, 0xC000)
  | .drw _ _ _ => (0xF000, 0xD000)
  | .skp _ => (0xF0FF, 0xE09E)
  | .sknp _ => (0xF0FF, 0xE0A1)
  | .ldVxDt _ => (0xF0FF, 0xF007)
  | .ldVxK _ => (0xF0FF, 0xF00A)
  | .ldDtVx _ => (0xF0FF, 0xF015)
  | .ldStVx _ => (0xF0FF, 0xF018)
  | .addIVx _ => (0xF0FF, 0xF01E)
  | .ldFVx _ => (0xF0FF, 0xF029)
  | .ldBVx _ => (0xF0FF, 0xF033)
  | .ldIVx _ => (0xF0FF, 0xF055)
  | .ldVxI _ => (0xF0FF, 0xF065)

/-- The encoded word, masked to the row's fixed bits, is the row's pattern. -/
def FixedBits.Statement (i : Instr) : Prop := encode i &&& (fixedBits i).1 = (fixedBits i).2

theorem FixedBits.cls : FixedBits.Statement .cls := rfl
theorem FixedBits.ret : FixedBits.Statement .ret := rfl
theorem FixedBits.jmpAddr (nnn : Addr) : FixedBits.Statement (.jmpAddr nnn) := formatA_and _ _
theorem FixedBits.callAddr (nnn : Addr) : FixedBits.Statement (.callAddr nnn) := formatA_and _ _
theorem FixedBits.seImm (x : RegIdx) (kk : Byte) : FixedBits.Statement (.seImm x kk) := formatXK_and _ _ _
theorem FixedBits.sneImm (x : RegIdx) (kk : Byte) : FixedBits.Statement (.sneImm x kk) := formatXK_and _ _ _
theorem FixedBits.seReg (x y : RegIdx) : FixedBits.Statement (.seReg x y) := formatXY_and _ _ _ _
theorem FixedBits.ldImm (x : RegIdx) (kk : Byte) : FixedBits.Statement (.ldImm x kk) := formatXK_and _ _ _
theorem FixedBits.addImm (x : RegIdx) (kk : Byte) : FixedBits.Statement (.addImm x kk) := formatXK_and _ _ _
theorem FixedBits.ldReg (x y : RegIdx) : FixedBits.Statement (.ldReg x y) := formatXY_and _ _ _ _
theorem FixedBits.orReg (x y : RegIdx) : FixedBits.Statement (.orReg x y) := formatXY_and _ _ _ _
theorem FixedBits.andReg (x y : RegIdx) : FixedBits.Statement (.andReg x y) := formatXY_and _ _ _ _
theorem FixedBits.xorReg (x y : RegIdx) : FixedBits.Statement (.xorReg x y) := formatXY_and _ _ _ _
theorem FixedBits.addReg (x y : RegIdx) : FixedBits.Statement (.addReg x y) := formatXY_and _ _ _ _
theorem FixedBits.sub (x y : RegIdx) : FixedBits.Statement (.sub x y) := formatXY_and _ _ _ _
theorem FixedBits.shr (x y : RegIdx) : FixedBits.Statement (.shr x y) := formatXY_and _ _ _ _
theorem FixedBits.subn (x y : RegIdx) : FixedBits.Statement (.subn x y) := formatXY_and _ _ _ _
theorem FixedBits.shl (x y : RegIdx) : FixedBits.Statement (.shl x y) := formatXY_and _ _ _ _
theorem FixedBits.sneReg (x y : RegIdx) : FixedBits.Statement (.sneReg x y) := formatXY_and _ _ _ _
theorem FixedBits.ldIAddr (nnn : Addr) : FixedBits.Statement (.ldIAddr nnn) := formatA_and _ _
theorem FixedBits.jpV0Addr (nnn : Addr) : FixedBits.Statement (.jpV0Addr nnn) := formatA_and _ _
theorem FixedBits.rnd (x : RegIdx) (kk : Byte) : FixedBits.Statement (.rnd x kk) := formatXK_and _ _ _
theorem FixedBits.drw (x y : RegIdx) (n : Nat) : FixedBits.Statement (.drw x y n) := formatXYN_and _ _ _ _
theorem FixedBits.skp (x : RegIdx) : FixedBits.Statement (.skp x) := formatX_and _ _ _
theorem FixedBits.sknp (x : RegIdx) : FixedBits.Statement (.sknp x) := formatX_and _ _ _
theorem FixedBits.ldVxDt (x : RegIdx) : FixedBits.Statement (.ldVxDt x) := formatX_and _ _ _
theorem FixedBits.ldVxK (x : RegIdx) : FixedBits.Statement (.ldVxK x) := formatX_and _ _ _
theorem FixedBits.ldDtVx (x : RegIdx) : FixedBits.Statement (.ldDtVx x) := formatX_and _ _ _
theorem FixedBits.ldStVx (x : RegIdx) : FixedBits.Statement (.ldStVx x) := formatX_and _ _ _
theorem FixedBits.addIVx (x : RegIdx) : FixedBits.Statement (.addIVx x) := formatX_and _ _ _
theorem FixedBits.ldFVx (x : RegIdx) : FixedBits.Statement (.ldFVx x) := formatX_and _ _ _
theorem FixedBits.ldBVx (x : RegIdx) : FixedBits.Statement (.ldBVx x) := formatX_and _ _ _
theorem FixedBits.ldIVx (x : RegIdx) : FixedBits.Statement (.ldIVx x) := formatX_and _ _ _
theorem FixedBits.ldVxI (x : RegIdx) : FixedBits.Statement (.ldVxI x) := formatX_and _ _ _

end Sys2Proof.Laws
end

