-- ==== Sys2Proof/Tests/Slice0.lean ====
section
/-! SUPPORT. Tests.  Expected results come from outside the model: words are written out from the patterns of 30_encoding.md R86, one-step
results are the vectors of 95_test_vectors.md, named in each comment.  The witnesses of the statements stand at the end. -/

namespace Sys2Proof.Tests

open Sys2Proof Sys2Proof.Machine

/-! ### Helpers -/

/-- The machine right after reset under the default parameters: the start of every vector. -/
abbrev fresh : State := State.reset

/-- The start of a vector that names a parameter. -/
def withParams (f : Config.Params → Config.Params) : State := { State.reset with params := f Config.Params.default }

/-- The next state of an outcome. -/
def next? : Result → Option State
  | .next t => some t
  | _ => none

/-- The state after one Tick of the word `w` placed at PC. -/
def run (w : Nat) (s : State) : Option State := next? (step (s.withFetchWord 16 w))

/-- The state after one step. -/
def stepped (s : State) : Option State := next? (step s)

/-- One row of the screen as 0 and 1, from the left, the first `k` pixels. -/
def firstPixels (k : Nat) (py : Fin 32) (s : State) : List Nat :=
  (List.range k).map fun x => if s.fb.pixel (Fin.ofNat 64 x) py then 1 else 0

/-! ### WellFormed: the one check refuses its ill-formed term -/

theorem test_wf_refuses_sixteen_rows : (Instr.drw 0x0 0x0 16).wf = false := by decide

theorem test_wf_admits_fifteen_rows : (Instr.drw 0xF 0xF 15).wf = true := by decide

/-! ### Decode: every constructor from a word written out from R86 -/

theorem test_decode_control_flow :
    decodeTableWord 16 0x00EE = some (.ret) ∧ decodeTableWord 16 0x1A5C = some (.jmpAddr 0xA5C) ∧
    decodeTableWord 16 0x2A4C = some (.callAddr 0xA4C) ∧ decodeTableWord 16 0x3A42 = some (.seImm 0xA 0x42) ∧
    decodeTableWord 16 0x4B17 = some (.sneImm 0xB 0x17) ∧ decodeTableWord 16 0x5C30 = some (.seReg 0xC 0x3) ∧
    decodeTableWord 16 0x93C0 = some (.sneReg 0x3 0xC) ∧ decodeTableWord 16 0xB7E1 = some (.jpV0Addr 0x7E1) := by
  decide

theorem test_decode_loads_and_logic :
    decodeTableWord 16 0x6E9D = some (.ldImm 0xE 0x9D) ∧ decodeTableWord 16 0x71F2 = some (.addImm 0x1 0xF2) ∧
    decodeTableWord 16 0x8A40 = some (.ldReg 0xA 0x4) ∧ decodeTableWord 16 0x8A41 = some (.orReg 0xA 0x4) ∧
    decodeTableWord 16 0x8A42 = some (.andReg 0xA 0x4) ∧ decodeTableWord 16 0x8A43 = some (.xorReg 0xA 0x4) ∧
    decodeTableWord 16 0xC5B6 = some (.rnd 0x5 0xB6) := by
  decide

theorem test_decode_arithmetic :
    decodeTableWord 16 0x8B54 = some (.addReg 0xB 0x5) ∧ decodeTableWord 16 0x8B55 = some (.sub 0xB 0x5) ∧
    decodeTableWord 16 0x8B56 = some (.shr 0xB 0x5) ∧ decodeTableWord 16 0x8B57 = some (.subn 0xB 0x5) ∧
    decodeTableWord 16 0x8B5E = some (.shl 0xB 0x5) := by
  decide

theorem test_decode_index_and_memory :
    decodeTableWord 16 0xA9F3 = some (.ldIAddr 0x9F3) ∧ decodeTableWord 16 0xF71E = some (.addIVx 0x7) ∧
    decodeTableWord 16 0xFE29 = some (.ldFVx 0xE) ∧ decodeTableWord 16 0xF333 = some (.ldBVx 0x3) ∧
    decodeTableWord 16 0xFA55 = some (.ldIVx 0xA) ∧ decodeTableWord 16 0xF765 = some (.ldVxI 0x7) := by
  decide

theorem test_decode_display :
    decodeTableWord 16 0x00E0 = some (.cls) ∧ decodeTableWord 16 0xD3C9 = some (.drw 0x3 0xC 9) := by
  decide

theorem test_decode_keypad_and_timers :
    decodeTableWord 16 0xE59E = some (.skp 0x5) ∧ decodeTableWord 16 0xE6A1 = some (.sknp 0x6) ∧
    decodeTableWord 16 0xF807 = some (.ldVxDt 0x8) ∧ decodeTableWord 16 0xF90A = some (.ldVxK 0x9) ∧
    decodeTableWord 16 0xFB15 = some (.ldDtVx 0xB) ∧ decodeTableWord 16 0xFD18 = some (.ldStVx 0xD) := by
  decide

/-- R89, vectors F1 to F8. -/
theorem test_decode_refuses_illegal_words :
    [0x0000, 0x0123, 0x00E1, 0x5121, 0x912F, 0x8008, 0xE09F, 0xF000].map (decodeTableWord 16) = List.replicate 8 none := by
  decide

/-- R65, R80: big-endian, and the bytes after the word are handed back. -/
theorem test_decode_bytes : decode [0x12, 0x04, 0x60] = .ok (.jmpAddr 0x204, [0x60]) := by rfl

theorem test_encode_words : encode (.drw 0x3 0xC 9) = 0xD3C9 ∧ encode (.callAddr 0xA4C) = 0x2A4C ∧ encode (.seImm 0xA 0x42) = 0x3A42 ∧
    encode (.ldBVx 0x3) = 0xF333 := by
  decide

/-! ### One step: the vectors of 95_test_vectors.md -/

/-- D1. -/
theorem test_cls :
    (run 0x00E0 { fresh with fb := fresh.fb.setPixel 63 31 true }).map (fun t => (t.fb.pixel 63 31, t.dirty.pixel 0 0, t.pc)) = some (false, true, 0x202) := by decide

/-- C3. -/
theorem test_ret :
    (run 0x00EE { fresh with pc := 0x300, depth := 2, stack := (fresh.stack.set 0 0x200).set 1 0x2A4 }).map (fun t => (t.pc, t.sp)) = some (0x2A6, 0) := by decide

/-- C4. -/
theorem test_ret_underflow :
    (run 0x00EE fresh).map (fun t => (t.pc, t.err, t.halted)) = some (0x200, some (.stackUnderflow, 0x200), true) := by decide

/-- C5. -/
theorem test_jmp :
    (run 0x1234 fresh).map (fun t => (t.pc)) = some (0x234) := by decide

/-- C9. -/
theorem test_call :
    (run 0x2400 { fresh with pc := 0x20A, depth := 15 }).map (fun t => (t.pc, t.sp, t.stack[15])) = some (0x400, 15, 0x20A) := by decide

/-- C10. -/
theorem test_call_overflow :
    (run 0x2400 { fresh with pc := 0x20A, depth := 16 }).map (fun t => (t.pc, t.sp, t.err)) = some (0x20A, 15, some (.stackOverflow, 0x20A)) := by decide

/-- C11. -/
theorem test_se_imm :
    (run 0x3A2B (fresh.setV 10 0x2B)).map (fun t => (t.pc)) = some (0x204) := by decide

/-- C14. -/
theorem test_sne_imm :
    (run 0x4A2B (fresh.setV 10 0x2C)).map (fun t => (t.pc)) = some (0x204) := by decide

/-- C16. -/
theorem test_se_reg :
    (run 0x5120 ((fresh.setV 1 7).setV 2 8)).map (fun t => (t.pc)) = some (0x202) := by decide

/-- C19. -/
theorem test_sne_reg :
    (run 0x9120 ((fresh.setV 1 7).setV 2 8)).map (fun t => (t.pc)) = some (0x204) := by decide

/-- C21. -/
theorem test_jp_v0 :
    (run 0xBFFF (fresh.setV 0 0xFF)).map (fun t => (t.pc)) = some (0x10FE) := by decide

/-- A1. -/
theorem test_ld_imm :
    (run 0x6A2B fresh).map (fun t => (t.v 10, t.pc)) = some (0x2B, 0x202) := by decide

/-- A2. -/
theorem test_add_imm :
    (run 0x73FF ((fresh.setV 3 0x02).setV 15 0x05)).map (fun t => (t.v 3, t.v 15)) = some (0x01, 0x05) := by decide

/-- A4. -/
theorem test_ld_reg :
    (run 0x8120 (fresh.setV 2 0x9A)).map (fun t => (t.v 1, t.v 2)) = some (0x9A, 0x9A) := by decide

/-- A5. -/
theorem test_or :
    (run 0x8121 ((fresh.setV 1 0xF0).setV 2 0x0F)).map (fun t => (t.v 1, t.v 2)) = some (0xFF, 0x0F) := by decide

/-- A6. -/
theorem test_and :
    (run 0x8122 ((fresh.setV 1 0xF3).setV 2 0x3F)).map (fun t => (t.v 1)) = some (0x33) := by decide

/-- A7. -/
theorem test_xor :
    (run 0x8123 ((fresh.setV 1 0xFF).setV 2 0x0F)).map (fun t => (t.v 1)) = some (0xF0) := by decide

/-- S4. -/
theorem test_add_reg :
    (run 0x8014 ((fresh.setV 0 200).setV 1 200)).map (fun t => (t.v 0, t.v 15, t.pc)) = some (144, 1, 0x202) := by decide

/-- A11. -/
theorem test_add_reg_to_vf :
    (run 0x8F14 ((fresh.setV 15 0x05).setV 1 0x03)).map (fun t => (t.v 15)) = some (0x08) := by decide

/-- A15. -/
theorem test_sub :
    (run 0x8015 ((fresh.setV 0 3).setV 1 10)).map (fun t => (t.v 0, t.v 15)) = some (0xF9, 0) := by decide

/-- A18. -/
theorem test_sub_from_vf :
    (run 0x8F15 ((fresh.setV 15 0x10).setV 1 0x03)).map (fun t => (t.v 15)) = some (0xFE) := by decide

/-- A24. -/
theorem test_shr :
    (run 0x8566 ((fresh.setV 5 0x04).setV 6 0xFF)).map (fun t => (t.v 5, t.v 15)) = some (0x02, 0) := by decide

/-- A25. -/
theorem test_shr_legacy :
    (run 0x8566 (((withParams fun p => { p with shift := .legacy }).setV 5 0x04).setV 6 0xFF)).map (fun t => (t.v 5, t.v 15)) = some (0x7F, 1) := by decide

/-- A28. -/
theorem test_subn :
    (run 0x8017 ((fresh.setV 0 3).setV 1 10)).map (fun t => (t.v 0, t.v 15)) = some (7, 1) := by decide

/-- A31. -/
theorem test_subn_equal_ge :
    (run 0x8017 (((withParams fun p => { p with subFlag := .ge }).setV 0 7).setV 1 7)).map (fun t => (t.v 0, t.v 15)) = some (0, 1) := by decide

/-- A32. -/
theorem test_shl :
    (run 0x822E (fresh.setV 2 0x81)).map (fun t => (t.v 2, t.v 15)) = some (0x02, 1) := by decide

/-- A36. -/
theorem test_shl_of_vf_snapshot :
    (run 0x8F0E ((withParams fun p => { p with operandRead := .snapshot }).setV 15 0xC1)).map (fun t => (t.v 15)) = some (0x82) := by decide

/-- A37: the drawn byte, masked. -/
theorem test_rnd : (run 0xC30F fresh).map (fun t => (t.v 3, t.rng)) = some ((Config.rngNext 0).1 &&& 0x0F, (Config.rngNext 0).2) := by
  rfl

/-- A38: a mask of 0 gives 0 whatever is drawn, and the draw still happens. -/
theorem test_rnd_mask_zero : (run 0xC300 (fresh.setV 3 0x55)).map (fun t => (t.v 3, t.rng)) = some (0x00, (Config.rngNext 0).2) := by
  have : (run 0xC300 (fresh.setV 3 0x55)).map (fun t => (t.v 3, t.rng)) = some ((Config.rngNext 0).1 &&& 0x00, (Config.rngNext 0).2) := by
    rfl
  simpa using this

/-- M1. -/
theorem test_ld_i_addr :
    (run 0xA2F0 fresh).map (fun t => (t.idx)) = some (0x2F0) := by decide

/-- M3. -/
theorem test_add_i_vx :
    (run 0xF41E ({ fresh with idx := 0xFFFF }.setV 4 0x01)).map (fun t => (t.idx, t.v 15)) = some (0, 0) := by decide

/-- M6. -/
theorem test_ld_f_vx :
    (run 0xFA29 (fresh.setV 10 0x0F)).map (fun t => (t.idx)) = some (0x04B) := by decide

/-- M7. -/
theorem test_ld_f_vx_out_of_range :
    (run 0xFA29 ({ fresh with idx := 0x123 }.setV 10 0x10)).map (fun t => (t.idx, t.err)) = some (0x123, some (.fontOutOfRange, 0x10)) := by decide

/-- M11. -/
theorem test_ld_b_vx :
    (run 0xF033 ({ fresh with idx := 0xFFD }.setV 0 123)).map (fun t => (t.readByte 0xFFD, t.readByte 0xFFE, t.readByte 0xFFF)) = some (1, 2, 3) := by decide

/-- M12. -/
theorem test_ld_b_vx_out_of_range :
    (run 0xF033 ({ fresh with idx := 0xFFE }.setV 0 123)).map (fun t => (t.readByte 0xFFE, t.err)) = some (0, some (.addressOutOfRange, 0x1000)) := by decide

/-- M13. -/
theorem test_ld_i_vx :
    (run 0xF355 (((({ fresh with idx := 0x400 }.setV 0 0x11).setV 1 0x22).setV 2 0x33).setV 3 0x44)).map (fun t => ((List.range 4).map (fun k => t.readByte (0x400 + k)), t.idx)) = some ([0x11, 0x22, 0x33, 0x00], 0x400) := by decide

/-- M16. -/
theorem test_ld_i_vx_inclusive_out_of_range :
    (run 0xF055 ({ withParams (fun p => { p with lsRange := .inclusive }) with idx := 0xFFFF }.setV 0 0x11)).map (fun t => (t.err)) = some (some (.addressOutOfRange, 0xFFFF)) := by decide

/-- M18. -/
theorem test_ld_vx_i :
    (run 0xF365 (({ fresh with idx := 0x400 }.storeBytes 0x400 [0x11, 0x22, 0x33, 0x44]).setV 3 0x99)).map (fun t => (t.v 0, t.v 1, t.v 2, t.v 3)) = some (0x11, 0x22, 0x33, 0x99) := by decide

/-- M20. -/
theorem test_ld_vx_i_out_of_range :
    (run 0xF365 { fresh with idx := 0xFFE }).map (fun t => (t.err)) = some (some (.addressOutOfRange, 0x1000)) := by decide

/-- D2. -/
theorem test_drw_wraps :
    (run 0xD011 (({ fresh with idx := 0x300 }.storeBytes 0x300 [0xFF]).setV 0 60)).map (fun t => (firstPixels 5 0 t, t.fb.pixel 59 0, t.fb.pixel 60 0, t.fb.pixel 63 0, t.v 15)) = some ([1, 1, 1, 1, 0], false, true, true, 0) := by decide

/-- D10. -/
theorem test_drw_at_vf_live :
    (run 0xDF11 ({ fresh with idx := 0x300, fb := fresh.fb.setPixel 0 0 true }.storeBytes 0x300 [0xC0])).map (fun t => (firstPixels 4 0 t, t.dirty.pixel 2 0, t.dirty.pixel 1 0, t.v 15)) = some ([0, 0, 1, 0], true, false, 1) := by decide

/-- K1. -/
theorem test_skp :
    (run 0xE59E ({ fresh with keys := 0x0400 }.setV 5 0x0A)).map (fun t => (t.pc)) = some (0x204) := by decide

/-- K5. -/
theorem test_skp_invalid_key :
    (run 0xE59E (fresh.setV 5 0x10)).map (fun t => (t.pc, t.err)) = some (0x200, some (.invalidKey, 0x10)) := by decide

/-- K4. -/
theorem test_sknp :
    (run 0xE5A1 ({ fresh with keys := 0x0400 }.setV 5 0x0A)).map (fun t => (t.pc)) = some (0x202) := by decide

/-- K6. -/
theorem test_sknp_invalid_key :
    (run 0xE5A1 (fresh.setV 5 0xFF)).map (fun t => (t.err)) = some (some (.invalidKey, 0xFF)) := by decide

/-- K7. -/
theorem test_ld_vx_k :
    (run 0xF20A { fresh with keys := 0x0088 }).map (fun t => (t.v 2, t.pc, t.waitingForKey)) = some (3, 0x202, none) := by decide

/-- K8. -/
theorem test_ld_vx_k_waits :
    (run 0xF20A { fresh with dt := 5, st := 5 }).map (fun t => (t.waitingForKey, t.pc, t.dt, t.st)) = some (some 2, 0x200, 5, 5) := by decide

/-- K11. -/
theorem test_ld_vx_dt :
    (run 0xF307 { fresh with dt := 0x3C }).map (fun t => (t.v 3, t.dt)) = some (0x3C, 0x3B) := by decide

/-- K13. -/
theorem test_ld_dt_vx :
    (run 0xF015 (fresh.setV 0 5)).map (fun t => (t.dt)) = some (4) := by decide

/-- K15. -/
theorem test_ld_dt_vx_external :
    (run 0xF015 ((withParams fun p => { p with timerMode := .external }).setV 0 5)).map (fun t => (t.dt)) = some (5) := by decide

/-- K16. -/
theorem test_ld_st_vx :
    (run 0xF118 (fresh.setV 1 0x10)).map (fun t => (t.st)) = some (0x0F) := by decide

/-- F14. -/
theorem test_unknown_opcode_keeps_timers :
    (run 0x0000 { fresh with dt := 5, st := 5 }).map (fun t => (t.dt, t.st, t.halted, t.result)) = some (5, 5, true, some (.fault .unknownOpcode 0x0000)) := by decide

/-! ### Ticks without a fetch, and the other events -/

/-- F11. -/
theorem test_fetch_across_the_top :
    (stepped { fresh with pc := 0xFFF }).map (fun t => (t.err, t.pc)) = some (some (.addressOutOfRange, 0x1000), 0xFFF) := by decide

/-- F12. -/
theorem test_fetch_above :
    (stepped { fresh with pc := 0x10FE }).map (fun t => (t.err)) = some (some (.addressOutOfRange, 0x10FE)) := by decide

/-- K9. -/
theorem test_key_wait_goes_on :
    (stepped { fresh with waitingForKey := some 2, dt := 5 }).map (fun t => (t.waitingForKey, t.dt, t.pc, t.result)) = some (some 2, 5, 0x200, some .ok) := by decide

/-- K10. -/
theorem test_key_wait_completes :
    (stepped { fresh with waitingForKey := some 2, dt := 5, st := 5, events := [.tick 0x1200] }).map (fun t => (t.v 2, t.waitingForKey, t.dt, t.st, t.pc)) = some (9, none, 4, 4, 0x202) := by decide

/-- E3. -/
theorem test_halted_tick :
    (stepped { fresh with halted := true, err := some (.unknownOpcode, 0), dt := 5 }).map (fun t => (t.result, t.dt, t.pc)) = some (some (.halted (some (.unknownOpcode, 0))), 5, 0x200) := by decide

/-- E1. -/
theorem test_pause :
    (stepped { fresh with events := [.pause] }).map (fun t => (t.halted, t.err)) = some (true, none) := by decide

/-- E4. -/
theorem test_present :
    (stepped { fresh with dirty := Bitmap.all true, events := [.present] }).map (fun t => (t.dirty.pixel 5 5, t.presented.map (fun c => c.2.pixel 5 5))) = some (false, some true) := by decide

/-- E9. -/
theorem test_timer_strobe :
    (stepped { withParams (fun p => { p with timerMode := .external }) with dt := 5, waitingForKey := some 2, events := [.timerStrobe] }).map (fun t => (t.dt, t.st, t.waitingForKey)) = some (4, 0, some 2) := by decide

/-- E10, R270. -/
theorem test_reset_event :
    (stepped { fresh with halted := true, depth := 3, events := [.reset [0x12, 0x04, 0x00, 0x00, 0x60, 0x23]] }).map (fun t => (t.halted, t.sp, t.readByte 0x201, t.readByte 0x205, t.readByte 0x04F)) = some (false, -1, 0x04, 0x23, 0x80) := by decide

/-- R240: TimerStrobe under `per_tick` is refused. -/
theorem test_timer_strobe_refused : step { fresh with events := [.timerStrobe] } = .refused .timerStrobePerTick := by rfl

/-- The model is the host's machine. -/
theorem test_core_step : Sys2Proof.core.step = Sys2Proof.Machine.step ∧ Sys2Proof.core.reset = fresh := ⟨rfl, rfl⟩

/-! ### Witnesses: concrete states and operands that meet the hypotheses of the statements

Each is named after its statement.  A statement with no hypothesis has none; one with several clauses has one for each, at a
boundary value of its range. -/

/-- The word `w` stored at `a` in a fresh machine whose PC is there. -/
def at_ (a : Nat) (w : Word) : State := { fresh with pc := BitVec.ofNat 16 a }.storeBytes a [highByte w, lowByte w]

/-- A Tick with an empty queue, for any state that has one. -/
theorem tickStarts_of_empty {s : State} (h : s.events = []) : TickStarts s s := .inl ⟨h, rfl⟩

theorem witness_DecodeOfEncodeGivesInstruction : (Instr.drw 0xF 0xF 15).wf = true := by decide

theorem witness_EncodeOfDecodeGivesWord : decodeWord 0xDFFF = .ok (.drw 0xF 0xF 15) := by rfl

theorem witness_NoWordFitsTwoRows :
    ∃ r q, instructionTable[33]? = some r ∧ instructionTable[33]? = some q ∧ r.fits 0xFF65 = true ∧ q.fits 0xFF65 = true :=
  ⟨_, _, rfl, rfl, by decide, by decide⟩

theorem witness_StepRunsTheDecodedInstruction :
    let s := at_ 0xFFE 0x6001
    TickStarts s s ∧ s.halted = false ∧ s.waitingForKey = none ∧ s.pc.toNat ≤ 0xFFE ∧
      decodeWord (wordAtPc s) = .ok (.ldImm 0 0x01) :=
  ⟨tickStarts_of_empty rfl, rfl, rfl, by decide, by rfl⟩

/-- The same with the Tick taken from the queue. -/
theorem witness_StepRunsTheDecodedInstruction_queued :
    let s := { fresh with events := [.tick 0x0002, .pause] }.storeBytes 0x200 [0xE0, 0x9E]
    let t := { s with keys := 0x0002, events := [.pause] }
    TickStarts s t ∧ s.halted = false ∧ s.waitingForKey = none ∧ s.pc.toNat ≤ 0xFFE ∧ decodeWord (wordAtPc t) = .ok (.skp 0) :=
  ⟨.inr ⟨_, _, rfl, rfl⟩, rfl, rfl, by decide, by rfl⟩

theorem witness_UndecodableWordHalts :
    TickStarts fresh fresh ∧ fresh.halted = false ∧ fresh.waitingForKey = none ∧ fresh.pc.toNat ≤ 0xFFE ∧
      ∀ r ∈ instructionTable, r.fits (wordAtPc fresh) = false :=
  ⟨tickStarts_of_empty rfl, rfl, rfl, by decide, by decide⟩

theorem witness_FetchAboveMemoryHalts :
    let s := { fresh with pc := 0xFFF }
    let u := { fresh with pc := 0x10FE }
    (TickStarts s s ∧ s.halted = false ∧ s.waitingForKey = none ∧ 0xFFF ≤ s.pc.toNat ∧ (0x1000 : Word).toNat = max s.pc.toNat 0x1000) ∧
    (TickStarts u u ∧ 0xFFF ≤ u.pc.toNat ∧ (0x10FE : Word).toNat = max u.pc.toNat 0x1000) :=
  ⟨⟨tickStarts_of_empty rfl, rfl, rfl, by decide, by decide⟩, tickStarts_of_empty rfl, by decide, by decide⟩

theorem witness_HaltedTickWritesNothing :
    TickStarts { fresh with halted := true } { fresh with halted := true } ∧ ({ fresh with halted := true } : State).halted = true :=
  ⟨tickStarts_of_empty rfl, rfl⟩

theorem witness_IsLowestKey : IsLowestKey 0x8000 15 ∧ IsLowestKey 0x8001 0 := by
  unfold IsLowestKey
  decide

theorem witness_KeyWaitTickCompletesOrChangesNothing :
    let s := { fresh with waitingForKey := some 0xF, keys := 0x8000 }
    let u := { fresh with waitingForKey := some 0x0 }
    (TickStarts s s ∧ s.halted = false ∧ s.waitingForKey = some 0xF ∧ IsLowestKey s.keys 15) ∧
    (TickStarts u u ∧ u.halted = false ∧ u.waitingForKey = some 0x0 ∧ u.keys = 0) :=
  ⟨⟨tickStarts_of_empty rfl, rfl, rfl, witness_IsLowestKey.1⟩, tickStarts_of_empty rfl, rfl, rfl, rfl⟩

theorem witness_PauseLatchesHalted : ({ fresh with events := [.pause] } : State).events = .pause :: [] := rfl

theorem witness_PresentCopiesAndClearsDirty : ({ fresh with events := [.present] } : State).events = .present :: [] := rfl

theorem witness_TimerStrobeCountsDownUnlessHalted :
    let s := { withParams (fun p => { p with timerMode := .external }) with dt := 1, events := [.timerStrobe] }
    s.events = .timerStrobe :: [] ∧ s.params.timerMode = .external := ⟨rfl, rfl⟩

theorem witness_OnlyForbiddenEventsAreRefused :
    step { fresh with events := [.reset (List.replicate 3585 0x00)] } = .refused .romTooLong := by
  have h : (List.replicate 3585 (0x00 : Byte)).length = 3585 := List.length_replicate ..
  simp only [step, serveNext, serve, resetEvent, h]
  rfl

theorem witness_ResetEventSetsEveryField :
    let s := { fresh with events := [.reset (List.replicate 3584 0xFF)] }
    s.events = .reset (List.replicate 3584 0xFF) :: [] ∧ (List.replicate 3584 (0xFF : Byte)).length ≤ 3584 :=
  ⟨rfl, (List.length_replicate ..).le⟩

/-- The clauses of SUB, SUBN, SHR and SHL: x apart from VF; early reads; VF as either operand under `live`. -/
theorem witness_clauses_of_flag_writers :
    (0xE : RegIdx) ≠ regF ∧ ReadsAreEarly fresh 0xE 0x0 ∧ fresh.params.operandRead = .live ∧ (0xF : RegIdx) = regF ∧
      ReadsAreEarly (withParams fun p => { p with operandRead := .snapshot }) 0xF 0xF :=
  ⟨by decide, .inr (by decide), rfl, rfl, .inl rfl⟩

theorem witness_JpV0AddsV0 : 0xFFE < ((0xFFF : Addr).toNat + ((fresh.setV 0 0x00).v 0).toNat) := by decide

theorem witness_CallPushesItsOwnAddress :
    ({ fresh with depth := 15 } : State).sp < 15 ∧ ({ fresh with depth := 16 } : State).sp = 15 := by decide

theorem witness_RetPopsIntoPc :
    ({ fresh with depth := 1 } : State).sp = ((0 : Nat) : Int) ∧ ({ fresh with depth := 16 } : State).sp = ((15 : Nat) : Int) ∧
      fresh.sp = -1 := by
  decide

theorem witness_CompareSkipsMovePcByFourOrTwo : ({ fresh with pc := 0xFFC } : State).pc = 0xFFC := rfl

theorem witness_RetAfterCallReturnsPastTheCall :
    let s := { fresh with pc := 0xFFE, depth := 15 }
    s.pc.toNat ≤ 0xFFE ∧ s.sp < 15 ∧
      ∃ t u, exec (.callAddr 0x400) s = .next t ∧ u = { t with pc := 0x7AE } ∧ u.stack = t.stack ∧ u.depth = t.depth :=
  ⟨by decide, by decide, _, _, rfl, rfl, rfl, rfl⟩

theorem witness_FontGlyphAddressOrFault :
    ((fresh.setV 3 0x0F).v 3).toNat ≤ 0x0F ∧ 0x0F < ((fresh.setV 3 0x10).v 3).toNat := by decide

theorem witness_BcdStoresThreeDigits : ({ fresh with idx := 0xFFD } : State).idx.toNat + 2 ≤ 0xFFF := by decide

/-- Fifteen registers up to the last byte of memory; no register with I anywhere. -/
theorem witness_StoreRegistersWritesFromI :
    let s := { fresh with idx := 0xFF1 }
    let u := { fresh with idx := 0xFFFF }
    s.idx.toNat + movedCount s 0xF ≤ 0x1000 ∧ movedCount u 0x0 = 0 := by decide

theorem witness_LoadRegistersReadsFromI :
    let s := { withParams (fun p => { p with lsRange := .inclusive }) with idx := 0xFF0 }
    s.idx.toNat + movedCount s 0xF ≤ 0x1000 := by decide

theorem witness_StoreThenLoadGivesRegistersBack :
    let s := { fresh.setV 1 0x77 with idx := 0x300 }
    ∃ t u, exec (.ldIVx 0x2) s = .next t ∧ t.result = some .ok ∧ u = t.setV 1 0x00 ∧ u.idx = s.idx ∧ u.params = s.params ∧
      ∀ k : RegIdx, k.val < movedCount s 0x2 → u.readByte (s.idx.toNat + k.val) = t.readByte (s.idx.toNat + k.val) :=
  ⟨_, _, rfl, rfl, rfl, rfl, rfl, fun _ _ => rfl⟩

theorem witness_OutOfRangeAccessRaises :
    OutOfRange { fresh with idx := 0xFFF } 2 0x1000 ∧ OutOfRange { fresh with idx := 0xFFE } 3 0x1000 ∧
      OutOfRange { fresh with idx := 0xFFFF } (movedCount fresh 0x1) 0xFFFF := by
  unfold OutOfRange
  decide

/-- Fx55 stores 60 05 over the next instruction, and a Tick with the key 0 down is queued. -/
theorem witness_StoredBytesAreFetchedNext :
    let s := { (fresh.setV 0 0x60).setV 1 0x05 with idx := 0x202, events := [.tick 0x0001] }
    ∃ t u, exec (.ldIVx 0x2) s = .next t ∧ t.result = some .ok ∧ t.halted = false ∧ t.waitingForKey = none ∧ t.pc.toNat ≤ 0xFFE ∧
      TickStarts t u ∧ decodeWord (wordAfter (.ldIVx 0x2) s t.pc.toNat) = .ok (.ldImm 0 0x05) :=
  ⟨_, _, rfl, rfl, rfl, rfl, by decide, .inr ⟨_, _, rfl, rfl⟩, by rfl⟩

/-- Fx33 stores the digits of 123 from the second byte of the next instruction on: 60 01, with an empty queue. -/
theorem witness_StoredBytesAreFetchedNext_digits :
    let s := { fresh.setV 0 123 with idx := 0x203 }.storeBytes 0x202 [0x60]
    ∃ t u, exec (.ldBVx 0x0) s = .next t ∧ t.result = some .ok ∧ t.halted = false ∧ t.waitingForKey = none ∧ t.pc.toNat ≤ 0xFFE ∧
      TickStarts t u ∧ decodeWord (wordAfter (.ldBVx 0x0) s t.pc.toNat) = .ok (.ldImm 0 0x01) :=
  ⟨_, _, rfl, rfl, rfl, rfl, by decide, .inl ⟨rfl, rfl⟩, by rfl⟩

theorem witness_DrwRunsTheSpriteLoop :
    ({ fresh with idx := 0xFF1 } : State).idx.toNat + 15 ≤ 0x1000 ∧ (0 = 0 ∨ ({ fresh with idx := 0xFFFF } : State).idx.toNat + 0 ≤ 0x1000) :=
  ⟨by decide, .inl rfl⟩

/-- A one-row sprite with one bit: the cell it covers is on, so VF = 1; over an empty screen VF = 0. -/
theorem witness_DrwFlipsExactlyTheCoveredCells :
    let s := { fresh with idx := 0x300, fb := fresh.fb.setPixel 7 0 true }.storeBytes 0x300 [0x01]
    (1 ≤ 15 ∧ s.idx.toNat + 1 ≤ 0x1000 ∧ ReadsAreEarly s 0 1) ∧ (SpriteCovers s (s.v 0).toNat (s.v 1).toNat 1 7 0 ∧ s.fb.pixel 7 0 = true) ∧
      ¬ SpriteCovers s (s.v 0).toNat (s.v 1).toNat 1 8 0 ∧
      ∀ px py, SpriteCovers fresh (fresh.v 0).toNat (fresh.v 1).toNat 0 px py → fresh.fb.pixel px py = false := by
  refine ⟨⟨by decide, by decide, .inr (by decide)⟩, ⟨⟨0, 7, by decide⟩, by decide⟩, ?_, fun px py h => ?_⟩
  · rintro ⟨i, j, hi, hj, -, h, -⟩
    have hv : ((({ fresh with idx := 0x300, fb := fresh.fb.setPixel 7 0 true } : State).storeBytes 0x300 [0x01]).v 0).toNat = 0 := by
      decide
    rw [hv] at h
    have : (8 : Fin 64).val = 8 := rfl
    omega
  · obtain ⟨i, j, hi, -⟩ := h
    omega

theorem witness_DrwTwiceRestoresTheScreen :
    let s := { fresh with idx := 0xFF1 }
    15 ≤ 15 ∧ s.idx.toNat + 15 ≤ 0x1000 ∧ (0xE : RegIdx) ≠ regF ∧ (0x0 : RegIdx) ≠ regF ∧
      ∃ t, exec (.drw 0xE 0x0 15) s = .next t :=
  ⟨by decide, by decide, by decide, by decide, _, rfl⟩

theorem witness_KeySkipsOrInvalidKey :
    ((fresh.setV 3 0x0F).v 3).toNat ≤ 0x0F ∧ 0x0F < ((fresh.setV 3 0x10).v 3).toNat := by decide

theorem witness_KeyLoadTakesLowestOrWaits :
    IsLowestKey ({ fresh with keys := 0x8000 } : State).keys 15 ∧ fresh.keys = 0 := ⟨witness_IsLowestKey.1, rfl⟩

theorem witness_RegistersOutsideDestinationsKept :
    (∃ t, exec (.addReg 0x1 0x2) fresh = .next t) ∧ ¬ (Instr.addReg 0x1 0x2).mayWriteV fresh 0x2 :=
  ⟨⟨_, rfl⟩, by unfold Instr.mayWriteV; decide⟩

/-- The bytes next to those Fx33 stores, on either side. -/
theorem witness_BytesOutsideStoresKept :
    let s := { fresh with idx := 0x300 }
    (∃ t, exec (.ldBVx 0x1) s = .next t) ∧ ¬ (Instr.ldBVx 0x1).mayStore s 0x2FF ∧ ¬ (Instr.ldBVx 0x1).mayStore s 0x303 :=
  ⟨⟨_, rfl⟩, by unfold Instr.mayStore; decide, by unfold Instr.mayStore; decide⟩

/-- LD Vx, Vy meets every premise of the frame of the special state. -/
theorem witness_SpecialStateKept :
    let i := Instr.ldReg 0x1 0x2
    (∃ t, exec i fresh = .next t ∧ t.result = some .ok) ∧ ¬ i.writesI ∧ ¬ i.writesStack ∧ ¬ i.draws ∧ ¬ i.drawsByte ∧
      (∀ x, i ≠ .ldDtVx x) ∧ (∀ x, i ≠ .ldStVx x) ∧ ∀ x, i ≠ .ldVxK x :=
  ⟨⟨_, rfl, rfl⟩, not_false, not_false, not_false, not_false, by simp, by simp, by simp⟩

theorem witness_FaultsArePrecise :
    TickStarts fresh fresh ∧ ∃ u, step fresh = .next u ∧ u.result = some (.fault .unknownOpcode 0x0000) :=
  ⟨tickStarts_of_empty rfl, _, rfl, rfl⟩

theorem witness_Raises :
    Raises (.callAddr 0x400) { fresh with depth := 16 } .stackOverflow 0x200 ∧ Raises .ret fresh .stackUnderflow 0x200 ∧
      Raises (.skp 0x3) (fresh.setV 3 0x10) .invalidKey 0x10 ∧ Raises (.ldFVx 0x3) (fresh.setV 3 0x10) .fontOutOfRange 0x10 ∧
      Raises (.ldBVx 0x3) { fresh with idx := 0xFFE } .addressOutOfRange 0x1000 := by
  unfold Raises OutOfRange
  decide

theorem witness_KeysMatterOnlyToKeyInstructions :
    ¬ (Instr.drw 0x1 0x2 3).readsKeys ∧ ∃ t, exec (.drw 0x1 0x2 3) fresh = .next t := ⟨not_false, _, rfl⟩

theorem witness_SoundTimerIsNeverRead : ∃ t, exec (.ldVxDt 0x1) fresh = .next t := ⟨_, rfl⟩

theorem witness_HaltedStateSurvivesUntilReset :
    let s := { fresh with halted := true, events := [.present] }
    s.halted = true ∧ (∀ rom rest, s.events ≠ .reset rom :: rest) ∧ ∃ t, step s = .next t :=
  ⟨rfl, by simp, _, rfl⟩

/-- A running state with a stored byte, a full stack and a lit pixel meets each invariant, and its step has a next state. -/
theorem witness_invariants :
    let s := { fresh with idx := 0x300, depth := 16, fb := fresh.fb.setPixel 3 4 true, dirty := Bitmap.all true }.storeBytes 0x200 [0xF0, 0x33]
    MemoryCanonical s ∧ PcBounded s ∧ WaitsAtItsKeyLoad s ∧ StackFetchable s ∧ ErrImpliesHalted s ∧ DirtyCoversChanges s ∧
      ∃ t, step s = .next t := by
  refine ⟨?_, ?_, (fun r h => by cases h), ?_, fun h => (h rfl).elim, fun px py _ => ?_, _, rfl⟩
  · unfold MemoryCanonical
    decide
  · unfold PcBounded
    decide
  · unfold StackFetchable
    decide
  · exact pixel_all true px py

/-- A core that waits at the last word of memory, for the key of the Fx0A there. -/
theorem witness_StepKeepsPcBounded_waiting :
    let s := { at_ 0xFFE 0xF20A with waitingForKey := some 0x2 }
    PcBounded s ∧ WaitsAtItsKeyLoad s ∧ ∃ t, step s = .next t := by
  refine ⟨?_, fun r h => ?_, _, rfl⟩
  · unfold PcBounded
    decide
  · injection h with h
    subst h
    exact ⟨by decide, by rfl⟩

/-- A CALL at 0x200 puts its own address on the empty stack: the second alternative of the statement. -/
theorem witness_StepKeepsStackFetchable_call :
    let s := at_ 0x200 0x2400
    StackFetchable s ∧ ∃ t, step s = .next t ∧ t.depth.val = 1 ∧ (t.stack[0]).toNat = s.pc.toNat ∧
      decodeWord (wordAtPc s) = .ok (.callAddr 0x400) :=
  ⟨fun k _ h => by exact absurd h (by simp [at_, State.storeBytes, State.reset, State.powerOn]), _, rfl, rfl, rfl, by rfl⟩

theorem witness_StepKeepsParameters : ∃ t, step fresh = .next t := ⟨_, rfl⟩

end Sys2Proof.Tests
end

section
/-! The configuration parameters of 00_scope.md R9 (log 1): the inversion lemmas of `exec`, `tick` and `step` name every
state they can answer, and each of those has the parameters of the state it is made from. -/

namespace Sys2Proof.Machine

@[simp] theorem completedAt_params (pc : Word) (s : State) : (completedAt pc s).params = s.params := rfl

@[simp] theorem completed_params (s : State) : (completed s).params = s.params := rfl

@[simp] theorem faulted_params (kind : FaultKind) (info : Word) (s : State) : (faulted kind info s).params = s.params := rfl

theorem TickStarts.params_eq {s t : State} (h : TickStarts s t) : t.params = s.params := by rw [h.eq]

/-- No handler writes the parameters. -/
theorem HandlerLeaves.params_eq {i : Instr} {s u : State} (h : HandlerLeaves i s u) : u.params = s.params := by
  cases i with
  | ret =>
    obtain ⟨hd, rfl⟩ := h
    exact popToPc_params s hd
  | callAddr nnn =>
    obtain ⟨hd, rfl⟩ := h
    exact push_params s (s.pc.setWidth 12) hd
  | seImm | sneImm | seReg | sneReg | skp | sknp =>
    obtain ⟨c, rfl⟩ := h
    exact skipIf_params s c
  | ldImm x | addImm x | ldReg x | orReg x | andReg x | xorReg x | ldVxDt x | ldVxK x =>
    obtain ⟨b, rfl⟩ := h
    exact setV_params s x b
  | addReg x | sub x | shr x | subn x | shl x =>
    obtain ⟨f, g, rfl⟩ := h
    exact setFlagThenResult_params s x f g
  | ldIAddr | addIVx | ldFVx =>
    obtain ⟨a, rfl⟩ := h
    rfl
  | ldBVx | ldIVx =>
    obtain ⟨-, rfl⟩ := h
    exact storeBytes_params s _ _
  | drw x y n =>
    obtain rfl := h
    exact drawSprite_params x y n s
  | cls | jmpAddr | jpV0Addr | rnd | ldDtVx | ldStVx | ldVxI =>
    obtain rfl := h
    rfl

/-- No instruction writes the parameters, whether it faults, waits or completes. -/
theorem exec_params {i : Instr} {s t : State} (h : exec i s = .next t) : t.params = s.params := by
  obtain ⟨kind, info, -, rfl⟩ | ⟨x, -, -, rfl⟩ | ⟨u, hu, rfl⟩ := exec_cases h
  · exact faulted_params kind info s
  · rfl
  · exact (completedAt_params _ u).trans hu.params_eq

/-- No Tick writes the parameters: neither a halted one, nor one of the key-wait, nor one that fetches. -/
theorem tick_params {s t : State} (h : tick s = .next t) : t.params = s.params := by
  obtain ⟨-, rfl⟩ | ⟨-, r, -, hwait⟩ | ⟨-, -, hfetch⟩ := tick_cases h
  · rfl
  · obtain ⟨k, -, rfl⟩ | ⟨-, rfl⟩ := hwait
    · exact (completed_params _).trans (setV_params s r (keyByte k))
    · rfl
  · obtain ⟨a, -, rfl⟩ | ⟨-, rfl⟩ | ⟨-, i, -, hexec⟩ := hfetch
    · exact faulted_params _ a s
    · exact faulted_params _ _ s
    · exact exec_params hexec

/-- Settles O59, by the event the step serves: a Tick, or one of the four others of R100. -/
theorem stepKeepsParameters : Obligations.StepKeepsParameters := by
  intro s t h
  obtain ⟨u, hstart, htick⟩ | ⟨rest, -, rfl⟩ | ⟨rest, -, rfl⟩ | ⟨rest, -, -, rfl⟩ | ⟨rom, rest, -, -, rfl⟩ := step_cases h
  · exact (tick_params htick).trans hstart.params_eq
  · rfl
  · rfl
  · split <;> rfl
  · exact storeBytes_params (State.powerOn s.params) Config.programBase rom

end Sys2Proof.Machine
end

section
/-! What a handler keeps of the state it runs in (R110), beside the parameters, and where it leaves PC.  Every invariant of
the machine is derived from these facts and the inversion lemmas of `exec`, `tick` and `step`. -/

namespace Sys2Proof.Machine

/-- What every handler keeps, and what only the writers of the stack or of the screen change. -/
structure HandlerFrame (i : Instr) (s u : State) : Prop where
  halted        : u.halted = s.halted
  err           : u.err = s.err
  waitingForKey : u.waitingForKey = s.waitingForKey
  presented     : u.presented = s.presented
  stack         : ¬ i.writesStack → u.depth = s.depth ∧ u.stack = s.stack
  screen        : ¬ i.draws → u.fb = s.fb ∧ u.dirty = s.dirty

/-- A handler that writes at most memory, registers, I, PC, the timers and RNGSTATE meets the frame. -/
theorem HandlerFrame.of_eq {i : Instr} {s u : State}
    (h : u = { s with mem := u.mem, regs := u.regs, idx := u.idx, pc := u.pc, dt := u.dt, st := u.st, rng := u.rng }) :
    HandlerFrame i s u := by
  rw [h]
  exact ⟨rfl, rfl, rfl, rfl, fun _ => ⟨rfl, rfl⟩, fun _ => ⟨rfl, rfl⟩⟩

/-- Every handler keeps the fields no rule lets it write (R34–R43). -/
theorem HandlerLeaves.frame {i : Instr} {s u : State} (h : HandlerLeaves i s u) : HandlerFrame i s u := by
  cases i with
  | cls =>
    obtain rfl := h
    exact ⟨rfl, rfl, rfl, rfl, fun _ => ⟨rfl, rfl⟩, fun hd => (hd trivial).elim⟩
  | drw x y n =>
    obtain rfl := h
    exact ⟨by simp, by simp, by simp, by simp, fun _ => by simp, fun hd => (hd trivial).elim⟩
  | ret | callAddr =>
    obtain ⟨hd, rfl⟩ := h
    exact ⟨rfl, rfl, rfl, rfl, fun hw => (hw trivial).elim, fun _ => ⟨rfl, rfl⟩⟩
  | addReg | sub | shr | subn | shl =>
    obtain ⟨f, g, rfl⟩ := h
    exact .of_eq rfl
  | seImm | sneImm | seReg | sneReg | skp | sknp | ldImm | addImm | ldReg | orReg | andReg | xorReg | ldVxDt | ldVxK
  | ldIAddr | addIVx | ldFVx | ldBVx | ldIVx =>
    obtain ⟨_, rfl⟩ := h
    exact .of_eq rfl
  | jmpAddr | jpV0Addr | rnd | ldDtVx | ldStVx | ldVxI =>
    obtain rfl := h
    exact .of_eq rfl

/-- PC after an instruction that completes: 2 on, 4 on after a skip, or a 12-bit address plus at most a byte: the target of a
jump, the entry RET pops and its advance, or the sum of Bnnn (R107, R108, R120–R127). -/
theorem HandlerLeaves.pcAfter_cases {i : Instr} {s u : State} (h : HandlerLeaves i s u) :
    pcAfter i u = s.pc + 2 ∨ pcAfter i u = s.pc + 2 + 2 ∨
      ∃ (a : Addr) (b : Byte), pcAfter i u = a.setWidth 16 + b.setWidth 16 := by
  cases i with
  | ret =>
    obtain ⟨hd, rfl⟩ := h
    refine .inr (.inr ⟨s.stack[s.depth.val - 1], if s.params.retAdvance then 2 else 0, ?_⟩)
    by_cases ha : s.params.retAdvance <;> simp [pcAfter, ha]
  | jmpAddr nnn =>
    obtain rfl := h
    exact .inr (.inr ⟨nnn, 0, by simp [pcAfter]⟩)
  | callAddr nnn =>
    obtain ⟨hd, rfl⟩ := h
    exact .inr (.inr ⟨nnn, 0, by simp [pcAfter]⟩)
  | jpV0Addr nnn =>
    obtain rfl := h
    exact .inr (.inr ⟨nnn, s.v 0, rfl⟩)
  | seImm | sneImm | seReg | sneReg | skp | sknp =>
    obtain ⟨c, rfl⟩ := h
    cases c
    · exact .inl rfl
    · exact .inr (.inl rfl)
  | drw x y n =>
    obtain rfl := h
    exact .inl (congrArg (· + 2) (drawSprite_pc x y n s))
  | addReg | sub | shr | subn | shl =>
    obtain ⟨f, g, rfl⟩ := h
    exact .inl rfl
  | ldImm | addImm | ldReg | orReg | andReg | xorReg | ldVxDt | ldVxK | ldIAddr | addIVx | ldFVx | ldBVx | ldIVx =>
    obtain ⟨_, rfl⟩ := h
    exact .inl rfl
  | cls | rnd | ldDtVx | ldStVx | ldVxI =>
    obtain rfl := h
    exact .inl rfl

end Sys2Proof.Machine
end

section
/-! PC stays at most 0x10FE, and a core that waits has PC at its Fx0A (R33, R213). -/

namespace Sys2Proof.Machine

/-- The largest PC after an instruction fetched from memory: 0x1002 after a skip, 0x10FE after Bnnn. -/
theorem HandlerLeaves.pcAfter_le {i : Instr} {s u : State} (h : HandlerLeaves i s u) (hp : s.pc.toNat ≤ 0xFFE) :
    (pcAfter i u).toNat ≤ 0x10FE := by
  obtain e | e | ⟨a, b, e⟩ := h.pcAfter_cases <;> rw [e]
  · bv_omega
  · bv_omega
  · have ha := a.isLt
    have hb := b.isLt
    simp only [BitVec.toNat_add, BitVec.toNat_setWidth]
    omega

theorem exec_pcBounded {i : Instr} {s t : State} (h : exec i s = .next t) (hp : s.pc.toNat ≤ 0xFFE) : PcBounded t := by
  have hs : PcBounded s := by unfold PcBounded; omega
  obtain ⟨kind, info, -, rfl⟩ | ⟨x, -, -, rfl⟩ | ⟨u, hu, rfl⟩ := exec_cases h
  · exact hs
  · exact hs
  · exact hu.pcAfter_le hp

/-- A Tick keeps the bound: a fetch outside memory raises, so only PC ≤ 0xFFE is ever advanced (R103). -/
theorem tick_pcBounded {s t : State} (h : tick s = .next t) (hs : PcBounded s) (hw : WaitsAtItsKeyLoad s) : PcBounded t := by
  obtain ⟨-, rfl⟩ | ⟨-, r, hr, hwait⟩ | ⟨-, -, hfetch⟩ := tick_cases h
  · exact hs
  · obtain ⟨k, -, rfl⟩ | ⟨-, rfl⟩ := hwait
    · have hp : s.pc.toNat ≤ 0xFFE := (hw r hr).1
      show (s.pc + 2).toNat ≤ 0x10FE
      bv_omega
    · exact hs
  · obtain ⟨a, -, rfl⟩ | ⟨-, rfl⟩ | ⟨hp, i, -, hexec⟩ := hfetch
    · exact hs
    · exact hs
    · exact exec_pcBounded hexec hp

theorem waitsAtItsKeyLoad_of_none {s : State} (h : s.waitingForKey = none) : WaitsAtItsKeyLoad s := by
  intro r hr
  rw [h] at hr
  cases hr

/-- Only Fx0A enters the key-wait, for its own x and without moving PC (R213). -/
theorem exec_waitsAtItsKeyLoad {i : Instr} {s t : State} (h : exec i s = .next t) (hn : s.waitingForKey = none)
    (hp : s.pc.toNat ≤ 0xFFE) (hi : decodeWord (wordAtPc s) = .ok i) : WaitsAtItsKeyLoad t := by
  obtain ⟨kind, info, -, rfl⟩ | ⟨x, rfl, -, rfl⟩ | ⟨u, hu, rfl⟩ := exec_cases h
  · exact waitsAtItsKeyLoad_of_none hn
  · rintro r ⟨⟩
    exact ⟨hp, hi⟩
  · exact waitsAtItsKeyLoad_of_none (hu.frame.waitingForKey.trans hn)

theorem tick_waitsAtItsKeyLoad {s t : State} (h : tick s = .next t) (hw : WaitsAtItsKeyLoad s) : WaitsAtItsKeyLoad t := by
  obtain ⟨-, rfl⟩ | ⟨-, r, -, hwait⟩ | ⟨-, hn, hfetch⟩ := tick_cases h
  · exact hw
  · obtain ⟨k, -, rfl⟩ | ⟨-, rfl⟩ := hwait
    · exact waitsAtItsKeyLoad_of_none rfl
    · exact hw
  · obtain ⟨a, -, rfl⟩ | ⟨-, rfl⟩ | ⟨hp, i, hi, hexec⟩ := hfetch
    · exact hw
    · exact hw
    · exact exec_waitsAtItsKeyLoad hexec hn hp hi

theorem pcBounded_of_programBase {s : State} (h : s.pc = 0x0200) : PcBounded s := by
  unfold PcBounded
  rw [h]
  decide

/-- Settles O55: a Tick keeps both facts, Reset starts PC at 0x200 with no wait, and the other events touch neither PC, nor the
wait, nor memory. -/
theorem stepKeepsPcBounded : Obligations.StepKeepsPcBounded := by
  intro s t hp hw h
  obtain ⟨u, hstart, htick⟩ | ⟨rest, -, rfl⟩ | ⟨rest, -, rfl⟩ | ⟨rest, -, -, rfl⟩ | ⟨rom, rest, -, -, rfl⟩ := step_cases h
  · have hpu : PcBounded u := by rw [hstart.eq]; exact hp
    have hwu : WaitsAtItsKeyLoad u := by rw [hstart.eq]; exact hw
    exact ⟨tick_pcBounded htick hpu hwu, tick_waitsAtItsKeyLoad htick hwu⟩
  · exact ⟨hp, hw⟩
  · exact ⟨hp, hw⟩
  · split <;> exact ⟨hp, hw⟩
  · exact ⟨pcBounded_of_programBase rfl, waitsAtItsKeyLoad_of_none rfl⟩

end Sys2Proof.Machine
end

section
/-! DIRTY covers every pixel that changed since the last Present (R39, R244). -/

namespace Sys2Proof.Machine

/-- The claim is about the two maps and what was last presented. -/
theorem DirtyCoversChanges.congr {s t : State} (h : DirtyCoversChanges s) (hfb : t.fb = s.fb) (hdirty : t.dirty = s.dirty)
    (hpres : t.presented = s.presented) : DirtyCoversChanges t := by
  simpa only [DirtyCoversChanges, lastSeen, hfb, hdirty, hpres] using h

/-- The one place where a draw flips a pixel marks it in the same breath (R191). -/
theorem togglePixel_dirtyCoversChanges {s : State} (h : DirtyCoversChanges s) (px : Fin 64) (py : Fin 32) :
    DirtyCoversChanges (togglePixel s px py) := by
  intro qx qy hne
  rw [togglePixel_dirty, pixel_setPixel]
  split
  · rfl
  · next hq =>
    rw [togglePixel_fb, pixel_setPixel, if_neg hq] at hne
    exact h qx qy hne

theorem drawPixel_dirtyCoversChanges (before : State) (x y : RegIdx) (row : Byte) (i j : Nat) {s : State}
    (h : DirtyCoversChanges s) : DirtyCoversChanges (drawPixel before x y row i s j) := by
  unfold drawPixel
  split
  · exact togglePixel_dirtyCoversChanges h _ _
  · exact h

theorem drawSprite_dirtyCoversChanges (x y : RegIdx) (n : Nat) {s : State} (h : DirtyCoversChanges s) :
    DirtyCoversChanges (drawSprite x y n s) := by
  have hrow (t : State) (ht : DirtyCoversChanges t) (i : Nat) : DirtyCoversChanges (drawRow s x y t i) :=
    List.foldlRecOn _ _ ht fun u hu j _ => drawPixel_dirtyCoversChanges s x y _ i j hu
  exact List.foldlRecOn _ _ (h.congr rfl rfl rfl) fun t ht i _ => hrow t ht i

/-- CLS marks every cell, DRW each one it flips, and no other handler touches the screen. -/
theorem HandlerLeaves.dirtyCoversChanges {i : Instr} {s u : State} (hu : HandlerLeaves i s u) (h : DirtyCoversChanges s) :
    DirtyCoversChanges u := by
  by_cases hd : i.draws
  · cases i with
    | cls =>
      obtain rfl := hu
      exact fun px py _ => pixel_all true px py
    | drw x y n =>
      obtain rfl := hu
      exact drawSprite_dirtyCoversChanges x y n h
    | _ => exact hd.elim
  · obtain ⟨hfb, hdirty⟩ := hu.frame.screen hd
    exact h.congr hfb hdirty hu.frame.presented

theorem exec_dirtyCoversChanges {i : Instr} {s t : State} (h : exec i s = .next t) (hs : DirtyCoversChanges s) :
    DirtyCoversChanges t := by
  obtain ⟨kind, info, -, rfl⟩ | ⟨x, -, -, rfl⟩ | ⟨u, hu, rfl⟩ := exec_cases h
  · exact hs
  · exact hs
  · exact hu.dirtyCoversChanges hs

theorem tick_dirtyCoversChanges {s t : State} (h : tick s = .next t) (hs : DirtyCoversChanges s) : DirtyCoversChanges t := by
  obtain ⟨-, rfl⟩ | ⟨-, r, -, hwait⟩ | ⟨-, -, hfetch⟩ := tick_cases h
  · exact hs
  · obtain ⟨k, -, rfl⟩ | ⟨-, rfl⟩ := hwait <;> exact hs
  · obtain ⟨a, -, rfl⟩ | ⟨-, rfl⟩ | ⟨-, i, -, hexec⟩ := hfetch
    · exact hs
    · exact hs
    · exact exec_dirtyCoversChanges hexec hs

/-- With the framebuffer as it was last seen there is nothing to cover. -/
theorem dirtyCoversChanges_of_fb_eq {s : State} (h : s.fb = lastSeen s) : DirtyCoversChanges s := by
  intro px py hne
  rw [h] at hne
  exact (hne rfl).elim

/-- Settles O58: a Tick covers what it changes, and after Present or Reset the framebuffer is the one last seen. -/
theorem stepKeepsDirtyCoveringChanges : Obligations.StepKeepsDirtyCoveringChanges := by
  intro s t hs h
  obtain ⟨u, hstart, htick⟩ | ⟨rest, -, rfl⟩ | ⟨rest, -, rfl⟩ | ⟨rest, -, -, rfl⟩ | ⟨rom, rest, -, -, rfl⟩ := step_cases h
  · have hu : DirtyCoversChanges u := by rw [hstart.eq]; exact hs
    exact tick_dirtyCoversChanges htick hu
  · exact hs
  · exact dirtyCoversChanges_of_fb_eq rfl
  · split <;> exact hs
  · exact dirtyCoversChanges_of_fb_eq rfl

end Sys2Proof.Machine
end

section
/-! No instruction writes a register outside its destinations (R32, R110). -/

namespace Sys2Proof.Machine

/-- A handler writes its destination, VF where it is a flag writer or DRW, and no other register. -/
theorem HandlerLeaves.v_eq {i : Instr} {s u : State} {r : RegIdx} (h : HandlerLeaves i s u) (hr : ¬ i.mayWriteV s r) :
    u.v r = s.v r := by
  cases i with
  | ldImm | addImm | ldReg | orReg | andReg | xorReg | ldVxDt | ldVxK =>
    obtain ⟨b, rfl⟩ := h
    exact v_setV_ne s b hr
  | rnd =>
    obtain rfl := h
    exact v_setV_ne _ _ hr
  | addReg | sub | shr | subn | shl =>
    obtain ⟨f, g, rfl⟩ := h
    obtain ⟨hx, hf⟩ := not_or.1 hr
    rw [v_setFlagThenResult, if_neg hx, if_neg hf]
  | drw x y n =>
    obtain rfl := h
    exact (drawSprite_frame x y n s).2 r hr
  | ldVxI x =>
    obtain rfl := h
    exact (v_loadRegs s _ r).trans (if_neg hr)
  | ret | callAddr | seImm | sneImm | seReg | sneReg | skp | sknp | ldIAddr | addIVx | ldFVx | ldBVx | ldIVx =>
    obtain ⟨_, rfl⟩ := h
    rfl
  | cls | jmpAddr | jpV0Addr | ldDtVx | ldStVx =>
    obtain rfl := h
    rfl

/-- Settles O45: a fault and a key-wait write no register, and a handler writes its destinations alone. -/
theorem registersOutsideDestinationsKept : Obligations.RegistersOutsideDestinationsKept := by
  intro i s t r h hr
  obtain ⟨kind, info, -, rfl⟩ | ⟨x, -, -, rfl⟩ | ⟨u, hu, rfl⟩ := exec_cases h
  · rfl
  · rfl
  · exact hu.v_eq hr

end Sys2Proof.Machine
end

section
/-! No instruction reads ST (R37): every operation does the same to a state with another ST, so two runs of an instruction
differ in ST alone. -/

namespace Sys2Proof.Machine

/-- The same state with another ST. -/
def State.withSt (s : State) (st : Byte) : State := { s with st := st }

@[simp] theorem withSt_v (s : State) (st : Byte) (r : RegIdx) : (s.withSt st).v r = s.v r := rfl
@[simp] theorem withSt_idx (s : State) (st : Byte) : (s.withSt st).idx = s.idx := rfl
@[simp] theorem withSt_depth (s : State) (st : Byte) : (s.withSt st).depth = s.depth := rfl
@[simp] theorem withSt_params (s : State) (st : Byte) : (s.withSt st).params = s.params := rfl
@[simp] theorem withSt_lowestKey (s : State) (st : Byte) : lowestKey (s.withSt st) = lowestKey s := rfl

/-- Whenever `r` answers a next state, `q` answers the same state but for ST. -/
def SameButSt (r q : Result) : Prop := ∀ t, r = .next t → ∃ st, q = .next (t.withSt st)

theorem sameButSt_next (t : State) (st : Byte) : SameButSt (.next t) (.next (t.withSt st)) := by
  intro t' h
  injection h with h
  exact ⟨st, by rw [h]⟩

theorem sameButSt_raise (kind : FaultKind) (info : Word) (s : State) (st : Byte) :
    SameButSt (raise kind info s) (raise kind info (s.withSt st)) :=
  sameButSt_next (faulted kind info s) st

theorem sameButSt_endNormal (u : State) (st : Byte) : SameButSt (endNormal u) (endNormal (u.withSt st)) := by
  rw [endNormal_eq, endNormal_eq]
  exact sameButSt_next (completed u) _

theorem sameButSt_endPcSet (u : State) (st : Byte) : SameButSt (endPcSet u) (endPcSet (u.withSt st)) := by
  rw [endPcSet_eq, endPcSet_eq]
  exact sameButSt_next (completedAt u.pc u) _

theorem sameButSt_withRangeCheck {c : Nat} {s : State} {st : Byte} {body : State → Result}
    (h : SameButSt (body s) (body (s.withSt st))) :
    SameButSt (withRangeCheck c s body) (withRangeCheck c (s.withSt st) body) := by
  unfold withRangeCheck
  rw [withSt_idx]
  split
  · exact sameButSt_raise _ _ s st
  · exact h

theorem lateRead_withSt (before now : State) (st : Byte) :
    lateRead (before.withSt st) (now.withSt st) = (lateRead before now).withSt st := by
  unfold lateRead
  rw [withSt_params]
  split <;> rfl

theorem drawPixel_withSt (before : State) (x y : RegIdx) (row : Byte) (i : Nat) (s : State) (j : Nat) (st : Byte) :
    drawPixel (before.withSt st) x y row i (s.withSt st) j = (drawPixel before x y row i s j).withSt st := by
  unfold drawPixel
  rw [lateRead_withSt]
  split <;> rfl

theorem drawRow_withSt (before : State) (x y : RegIdx) (s : State) (i : Nat) (st : Byte) :
    drawRow (before.withSt st) x y (s.withSt st) i = (drawRow before x y s i).withSt st :=
  List.foldl_hom (State.withSt · st) fun u j => drawPixel_withSt before x y _ i u j st

theorem drawSprite_withSt (x y : RegIdx) (n : Nat) (s : State) (st : Byte) :
    drawSprite x y n (s.withSt st) = (drawSprite x y n s).withSt st := by
  have hinit : setFlag (s.withSt st) false = (setFlag s false).withSt st := rfl
  rw [drawSprite, hinit]
  exact List.foldl_hom (State.withSt · st) fun u i => drawRow_withSt s x y u i st

/-- The ordered flag write reads ST nowhere if its result does not. -/
theorem setFlagThenResult_withSt (s : State) (x : RegIdx) (f : Bool) {g : State → Byte} (st : Byte)
    (hg : ∀ u : State, g (u.withSt st) = g u) :
    setFlagThenResult (s.withSt st) x f g = (setFlagThenResult s x f g).withSt st := by
  have hlate : g (lateRead (s.withSt st) (setFlag (s.withSt st) f)) = g (lateRead s (setFlag s f)) :=
    (congrArg g (lateRead_withSt s (setFlag s f) st)).trans (hg _)
  simp only [setFlagThenResult, hlate]
  rfl

/-- A flag writer's result is computed from registers alone. -/
theorem sameButSt_flagWriter (s : State) (x : RegIdx) (f : Bool) {g : State → Byte} (st : Byte)
    (hg : ∀ u : State, g (u.withSt st) = g u) :
    SameButSt (endNormal (setFlagThenResult s x f g)) (endNormal (setFlagThenResult (s.withSt st) x f g)) := by
  rw [setFlagThenResult_withSt s x f st hg]
  exact sameButSt_endNormal _ st

theorem execRet_sameButSt (s : State) (st : Byte) : SameButSt (execRet s) (execRet (s.withSt st)) := by
  unfold execRet
  by_cases hd : 0 < s.depth.val
  · rw [dif_pos hd, dif_pos (by simpa using hd), withSt_params]
    split
    · exact sameButSt_endNormal (popToPc s hd) st
    · exact sameButSt_endPcSet (popToPc s hd) st
  · rw [dif_neg hd, dif_neg (by simpa using hd)]
    exact sameButSt_raise _ s.pc s st

theorem execCallAddr_sameButSt (nnn : Addr) (s : State) (st : Byte) :
    SameButSt (execCallAddr nnn s) (execCallAddr nnn (s.withSt st)) := by
  unfold execCallAddr
  by_cases hd : s.depth.val < 16
  · rw [dif_pos hd, dif_pos (by simpa using hd)]
    exact sameButSt_endPcSet { push s (s.pc.setWidth 12) hd with pc := nnn.setWidth 16 } st
  · rw [dif_neg hd, dif_neg (by simpa using hd)]
    exact sameButSt_raise _ s.pc s st

theorem execSkp_sameButSt (x : RegIdx) (s : State) (st : Byte) : SameButSt (execSkp x s) (execSkp x (s.withSt st)) := by
  unfold execSkp
  rw [withSt_v]
  split
  · exact sameButSt_endNormal (skipIf _ s) st
  · exact sameButSt_raise _ _ s st

theorem execSknp_sameButSt (x : RegIdx) (s : State) (st : Byte) : SameButSt (execSknp x s) (execSknp x (s.withSt st)) := by
  unfold execSknp
  rw [withSt_v]
  split
  · exact sameButSt_endNormal (skipIf _ s) st
  · exact sameButSt_raise _ _ s st

theorem execLdFVx_sameButSt (x : RegIdx) (s : State) (st : Byte) : SameButSt (execLdFVx x s) (execLdFVx x (s.withSt st)) := by
  unfold execLdFVx
  rw [withSt_v]
  split
  · exact sameButSt_raise _ _ s st
  · exact sameButSt_endNormal { s with idx := glyphAddress (s.v x) } st

theorem execLdVxK_sameButSt (x : RegIdx) (s : State) (st : Byte) : SameButSt (execLdVxK x s) (execLdVxK x (s.withSt st)) := by
  unfold execLdVxK
  rw [withSt_lowestKey]
  split
  · exact sameButSt_endNormal (s.setV x _) st
  · exact sameButSt_next { s with waitingForKey := some x, result := some .ok } st

theorem execDrw_sameButSt (x y : RegIdx) (n : Nat) (s : State) (st : Byte) :
    SameButSt (execDrw x y n s) (execDrw x y n (s.withSt st)) := by
  refine sameButSt_withRangeCheck ?_
  rw [drawSprite_withSt]
  exact sameButSt_endNormal _ st

theorem execLdBVx_sameButSt (x : RegIdx) (s : State) (st : Byte) : SameButSt (execLdBVx x s) (execLdBVx x (s.withSt st)) := by
  refine sameButSt_withRangeCheck ?_
  exact sameButSt_endNormal (s.storeBytes s.idx.toNat (bcdDigits (s.v x))) st

theorem execLdIVx_sameButSt (x : RegIdx) (s : State) (st : Byte) : SameButSt (execLdIVx x s) (execLdIVx x (s.withSt st)) := by
  refine sameButSt_withRangeCheck ?_
  exact sameButSt_endNormal (s.storeBytes s.idx.toNat (firstRegs s (transferCount s x))) st

theorem execLdVxI_sameButSt (x : RegIdx) (s : State) (st : Byte) : SameButSt (execLdVxI x s) (execLdVxI x (s.withSt st)) := by
  refine sameButSt_withRangeCheck ?_
  exact sameButSt_endNormal (loadRegs s (transferCount s x)) st

/-- Two runs of an instruction from states that differ in ST alone: LD ST, Vx overwrites it, the others carry it along. -/
theorem exec_sameButSt (i : Instr) (s : State) (st : Byte) : SameButSt (exec i s) (exec i (s.withSt st)) := by
  cases i with
  | ret => exact execRet_sameButSt s st
  | callAddr nnn => exact execCallAddr_sameButSt nnn s st
  | jmpAddr nnn => exact sameButSt_endPcSet { s with pc := nnn.setWidth 16 } st
  | jpV0Addr nnn => exact sameButSt_endPcSet { s with pc := nnn.setWidth 16 + (s.v 0).setWidth 16 } st
  | addReg x | sub x | shr x | subn x | shl x => exact sameButSt_flagWriter s x _ st fun _ => rfl
  | drw x y n => exact execDrw_sameButSt x y n s st
  | skp x => exact execSkp_sameButSt x s st
  | sknp x => exact execSknp_sameButSt x s st
  | ldVxK x => exact execLdVxK_sameButSt x s st
  | ldFVx x => exact execLdFVx_sameButSt x s st
  | ldBVx x => exact execLdBVx_sameButSt x s st
  | ldIVx x => exact execLdIVx_sameButSt x s st
  | ldVxI x => exact execLdVxI_sameButSt x s st
  | ldStVx x => exact sameButSt_endNormal { s with st := s.v x } (s.v x)
  | cls | seImm | sneImm | seReg | sneReg | ldImm | addImm | ldReg | orReg | andReg | xorReg | rnd | ldIAddr | ldVxDt
  | ldDtVx | addIVx =>
    exact sameButSt_endNormal _ st

/-- Settles O52: a run with another ST answers the same but for ST. -/
theorem soundTimerIsNeverRead : Obligations.SoundTimerIsNeverRead :=
  fun i s t st h => exec_sameButSt i s st t h

end Sys2Proof.Machine
end

section
/-! Where the entries on the stack come from (R35, R36). -/

namespace Sys2Proof.Machine

/-- Every entry on the stack of `t` was there in `s`, or is the PC of `s`, fetched from and holding a CALL. -/
def StackFrom (s t : State) : Prop :=
  ∀ (k : Nat) (h : k < 16), k < t.depth.val →
    (k < s.depth.val ∧ t.stack[k]'h = s.stack[k]'h) ∨
    ((t.stack[k]'h).toNat = s.pc.toNat ∧ s.pc.toNat ≤ 0xFFE ∧ ∃ nnn, decodeWord (wordAtPc s) = .ok (.callAddr nnn))

theorem StackFrom.refl (s : State) : StackFrom s s := fun _ _ hk => .inl ⟨hk, rfl⟩

/-- A pushed address is at most 0xFFE because an instruction was fetched from it. -/
theorem StackFrom.stackFetchable {s t : State} (h : StackFrom s t) (hs : StackFetchable s) : StackFetchable t := by
  intro k hk hd
  obtain ⟨hks, e⟩ | ⟨e, hp, -⟩ := h k hk hd
  · rw [e]
    exact hs k hk hks
  · rw [e]
    exact hp

/-- CALL pushes its own PC, RET only shortens the stack, and no other handler touches it. -/
theorem HandlerLeaves.stack_cases {i : Instr} {s u : State} (hu : HandlerLeaves i s u) {k : Nat} (h : k < 16)
    (hk : k < u.depth.val) :
    (k < s.depth.val ∧ u.stack[k] = s.stack[k]) ∨ ((∃ nnn, i = .callAddr nnn) ∧ u.stack[k] = s.pc.setWidth 12) := by
  by_cases hw : i.writesStack
  · cases i with
    | ret =>
      obtain ⟨hd, rfl⟩ := hu
      rw [popToPc_depth] at hk
      exact .inl ⟨by simp only at hk; omega, rfl⟩
    | callAddr nnn =>
      obtain ⟨hd, rfl⟩ := hu
      simp only [push_depth] at hk
      simp only [push_stack, Vector.getElem_set]
      by_cases hke : s.depth.val = k
      · exact .inr ⟨⟨nnn, rfl⟩, if_pos hke⟩
      · exact .inl ⟨by omega, if_neg hke⟩
    | _ => exact hw.elim
  · obtain ⟨hdepth, hstack⟩ := hu.frame.stack hw
    simp only [hdepth] at hk
    exact .inl ⟨hk, by simp only [hstack]⟩

theorem exec_stackFrom {i : Instr} {s t : State} (h : exec i s = .next t) (hp : s.pc.toNat ≤ 0xFFE)
    (hi : decodeWord (wordAtPc s) = .ok i) : StackFrom s t := by
  obtain ⟨kind, info, -, rfl⟩ | ⟨x, -, -, rfl⟩ | ⟨u, hu, rfl⟩ := exec_cases h
  · exact .refl s
  · exact .refl s
  · intro k hk hd
    obtain hkept | ⟨⟨nnn, rfl⟩, hpush⟩ := hu.stack_cases hk hd
    · exact .inl hkept
    · have hpc : (s.pc.setWidth 12).toNat = s.pc.toNat := by rw [BitVec.toNat_setWidth]; omega
      exact .inr ⟨(congrArg BitVec.toNat hpush).trans hpc, hp, nnn, hi⟩

theorem tick_stackFrom {s t : State} (h : tick s = .next t) : StackFrom s t := by
  obtain ⟨-, rfl⟩ | ⟨-, r, -, hwait⟩ | ⟨-, -, hfetch⟩ := tick_cases h
  · exact .refl s
  · obtain ⟨k, -, rfl⟩ | ⟨-, rfl⟩ := hwait <;> exact .refl s
  · obtain ⟨a, -, rfl⟩ | ⟨-, rfl⟩ | ⟨hp, i, hi, hexec⟩ := hfetch
    · exact .refl s
    · exact .refl s
    · exact exec_stackFrom hexec hp hi

theorem step_stackFrom {s t : State} (h : step s = .next t) : StackFrom s t := by
  obtain ⟨u, hstart, htick⟩ | ⟨rest, -, rfl⟩ | ⟨rest, -, rfl⟩ | ⟨rest, -, -, rfl⟩ | ⟨rom, rest, -, -, rfl⟩ := step_cases h
  · have hu := tick_stackFrom htick
    rw [hstart.eq] at hu
    exact hu
  · exact .refl s
  · exact .refl s
  · split <;> exact .refl s
  · exact fun k _ hk => absurd hk (Nat.not_lt_zero k)

/-- Settles O56: where the entries come from bounds them. -/
theorem stepKeepsStackFetchable : Obligations.StepKeepsStackFetchable :=
  fun _ _ h => ⟨(step_stackFrom h).stackFetchable, step_stackFrom h⟩

end Sys2Proof.Machine
end

section
/-! ERR is set only while halted (R40, R42). -/

namespace Sys2Proof.Machine

theorem exec_errImpliesHalted {i : Instr} {s t : State} (h : exec i s = .next t) (hs : ErrImpliesHalted s) :
    ErrImpliesHalted t := by
  obtain ⟨kind, info, -, rfl⟩ | ⟨x, -, -, rfl⟩ | ⟨u, hu, rfl⟩ := exec_cases h
  · exact fun _ => rfl
  · exact hs
  · intro he
    have he' : u.err ≠ none := he
    rw [hu.frame.err] at he'
    exact hu.frame.halted.trans (hs he')

/-- A Tick sets ERR only by a fault, which halts (R231). -/
theorem tick_errImpliesHalted {s t : State} (h : tick s = .next t) (hs : ErrImpliesHalted s) : ErrImpliesHalted t := by
  obtain ⟨-, rfl⟩ | ⟨-, r, -, hwait⟩ | ⟨-, -, hfetch⟩ := tick_cases h
  · exact hs
  · obtain ⟨k, -, rfl⟩ | ⟨-, rfl⟩ := hwait <;> exact hs
  · obtain ⟨a, -, rfl⟩ | ⟨-, rfl⟩ | ⟨-, i, -, hexec⟩ := hfetch
    · exact fun _ => rfl
    · exact fun _ => rfl
    · exact exec_errImpliesHalted hexec hs

/-- Settles O57: Pause halts, Reset clears ERR, and the other events touch neither. -/
theorem stepKeepsErrImpliesHalted : Obligations.StepKeepsErrImpliesHalted := by
  intro s t hs h
  obtain ⟨u, hstart, htick⟩ | ⟨rest, -, rfl⟩ | ⟨rest, -, rfl⟩ | ⟨rest, -, -, rfl⟩ | ⟨rom, rest, -, -, rfl⟩ := step_cases h
  · have hu : ErrImpliesHalted u := by rw [hstart.eq]; exact hs
    exact tick_errImpliesHalted htick hu
  · exact fun _ => rfl
  · exact hs
  · split <;> exact hs
  · exact fun he => absurd rfl he

end Sys2Proof.Machine
end

section
/-! The state before the first Reset (R270, R273): the values of its fields, and the base case of every invariant. -/

namespace Sys2Proof.Machine

/-- Above the font, memory that nothing has written reads as zero (R62). -/
theorem resetByte_of_le {font : Config.Font} {a : Nat} (h : 0x50 ≤ a) : resetByte font a = 0 :=
  dif_neg (by omega)

/-- Settles O16: the fields are read off, registers and stack are filled with zero, both maps are off, no byte is listed. -/
theorem resetStateHoldsTheSpecsValues : Obligations.ResetStateHoldsTheSpecsValues := by
  have hregs (r : RegIdx) : State.reset.v r = 0 := Vector.getElem_replicate ..
  have hstack (k : Nat) (h : k < 16) : State.reset.stack[k] = 0 := Vector.getElem_replicate ..
  have hoff (px : Fin 64) (py : Fin 32) :
      State.reset.fb.pixel px py = false ∧ State.reset.dirty.pixel px py = false :=
    ⟨pixel_all false px py, pixel_all false px py⟩
  exact ⟨rfl, rfl, rfl, rfl, rfl, rfl, rfl, rfl, rfl, rfl, hregs, hstack, hoff, fun _ ha => resetByte_of_le ha⟩

/-- Settles O60: nothing is listed, PC is 0x200, nothing waits, the stack is empty, ERR is none, no pixel is on. -/
theorem resetSatisfiesTheInvariants : Obligations.ResetSatisfiesTheInvariants where
  memory := Memory.wf_nil
  pc     := pcBounded_of_programBase rfl
  wait   := waitsAtItsKeyLoad_of_none rfl
  stack  := fun k _ hk => absurd hk (Nat.not_lt_zero k)
  err    := fun he => absurd rfl he
  dirty  := dirtyCoversChanges_of_fb_eq rfl

end Sys2Proof.Machine
end

section
/-! What a handler does to memory: it stores a run of bytes from I on, empty for all but Fx33 and Fx55, and the run is in range
(R60, R66, R67).  Every byte is the one before or one of the run. -/

namespace Sys2Proof.Machine

/-- The bytes an instruction stores from I on (R173, R174). -/
def storedBytes (i : Instr) (s : State) : List Byte :=
  match i with
  | .ldBVx x => bcdDigits (s.v x)
  | .ldIVx x => firstRegs s (transferCount s x)
  | _ => []

@[simp] theorem length_bcdDigits (b : Byte) : (bcdDigits b).length = 3 := rfl

theorem length_storedBytes_ldIVx (s : State) (x : RegIdx) : (storedBytes (.ldIVx x) s).length = transferCount s x :=
  length_firstRegs s (transferCount_le s x)

theorem movedCount_eq_transferCount (s : State) (x : RegIdx) : movedCount s x = transferCount s x := by
  unfold movedCount transferCount
  cases s.params.lsRange <;> simp

/-- Memory as a handler leaves it: the instruction's bytes stored from I on, nothing else. -/
theorem HandlerLeaves.mem_eq {i : Instr} {s u : State} (h : HandlerLeaves i s u) :
    u.mem = (s.storeBytes s.idx.toNat (storedBytes i s)).mem := by
  cases i with
  | drw x y n =>
    obtain rfl := h
    exact drawSprite_mem x y n s
  | addReg | sub | shr | subn | shl =>
    obtain ⟨f, g, rfl⟩ := h
    rfl
  | ret | callAddr | seImm | sneImm | seReg | sneReg | skp | sknp | ldImm | addImm | ldReg | orReg | andReg | xorReg | ldVxDt
  | ldVxK | ldIAddr | addIVx | ldFVx | ldBVx | ldIVx =>
    obtain ⟨_, rfl⟩ := h
    rfl
  | cls | jmpAddr | jpV0Addr | rnd | ldDtVx | ldStVx | ldVxI =>
    obtain rfl := h
    rfl

/-- A handler that completes has passed its range check, so what it stored is in range (R66). -/
theorem HandlerLeaves.stores_inRange {i : Instr} {s u : State} (h : HandlerLeaves i s u) :
    storedBytes i s = [] ∨ s.idx.toNat + (storedBytes i s).length ≤ Config.memSize := by
  cases i with
  | ldBVx x => exact .inr h.1
  | ldIVx x =>
    obtain ⟨hempty | hrange, -⟩ := h
    · exact .inl (List.eq_nil_of_length_eq_zero (by rw [length_storedBytes_ldIVx, hempty]))
    · exact .inr (by rw [length_storedBytes_ldIVx]; exact hrange)
  | _ => exact .inl rfl

/-- A byte as a handler leaves it. -/
theorem HandlerLeaves.readByte_eq {i : Instr} {s u : State} (h : HandlerLeaves i s u) (a : Nat) :
    u.readByte a = (s.storeBytes s.idx.toNat (storedBytes i s)).readByte a :=
  readByte_congr h.mem_eq h.params_eq a

/-- A byte after a store, wherever it is. -/
theorem readByte_storeBytes_eq (s : State) (a b : Nat) (bs : List Byte) :
    (s.storeBytes a bs).readByte b = if a ≤ b ∧ b < a + bs.length then bs.getD (b - a) 0x00 else s.readByte b := by
  split
  · next hin =>
    have hk : b - a < bs.length := by omega
    have hb : b = a + (b - a) := by omega
    calc (s.storeBytes a bs).readByte b
        = (s.storeBytes a bs).readByte (a + (b - a)) := by rw [← hb]
      _ = bs[b - a] := readByte_storeBytes s a (b - a) bs hk
      _ = bs.getD (b - a) 0x00 := (List.getD_eq_getElem bs 0x00 hk).symm
  · next hout => exact readByte_storeBytes_of_outside s a b bs (by omega)

end Sys2Proof.Machine
end

section
/-! Memory keeps its canonical form (R60, R62; log 9). -/

namespace Sys2Proof.Machine

/-- Stores in range keep the form, and a handler stores in range. -/
theorem HandlerLeaves.memoryCanonical {i : Instr} {s u : State} (hu : HandlerLeaves i s u) (hs : MemoryCanonical s) :
    MemoryCanonical u := by
  unfold MemoryCanonical
  rw [hu.params_eq, hu.mem_eq]
  exact Memory.wf_writeBytes (storedBytes i s) hs hu.stores_inRange

theorem exec_memoryCanonical {i : Instr} {s t : State} (h : exec i s = .next t) (hs : MemoryCanonical s) :
    MemoryCanonical t := by
  obtain ⟨kind, info, -, rfl⟩ | ⟨x, -, -, rfl⟩ | ⟨u, hu, rfl⟩ := exec_cases h
  · exact hs
  · exact hs
  · exact hu.memoryCanonical hs

/-- A Tick writes memory only by the instruction it runs. -/
theorem tick_memoryCanonical {s t : State} (h : tick s = .next t) (hs : MemoryCanonical s) : MemoryCanonical t := by
  obtain ⟨-, rfl⟩ | ⟨-, r, -, hwait⟩ | ⟨-, -, hfetch⟩ := tick_cases h
  · exact hs
  · obtain ⟨k, -, rfl⟩ | ⟨-, rfl⟩ := hwait <;> exact hs
  · obtain ⟨a, -, rfl⟩ | ⟨-, rfl⟩ | ⟨-, i, -, hexec⟩ := hfetch
    · exact hs
    · exact hs
    · exact exec_memoryCanonical hexec hs

/-- A ROM that Reset accepts fits above 0x200, so writing it to the reset memory keeps the form (R271). -/
theorem memoryCanonical_storeRom (p : Config.Params) {rom : List Byte} (h : rom.length ≤ Config.romMax) :
    MemoryCanonical ((State.powerOn p).storeBytes Config.programBase rom) :=
  Memory.wf_writeBytes rom Memory.wf_nil (.inr (Nat.add_le_add_left h Config.programBase))

/-- Settles O54: a Tick keeps the form, Reset makes a memory of that form, and the other events leave memory alone. -/
theorem stepKeepsMemoryCanonical : Obligations.StepKeepsMemoryCanonical := by
  intro s t hs h
  obtain ⟨u, hstart, htick⟩ | ⟨rest, -, rfl⟩ | ⟨rest, -, rfl⟩ | ⟨rest, -, -, rfl⟩ | ⟨rom, rest, -, hrom, rfl⟩ := step_cases h
  · have hu : MemoryCanonical u := by rw [hstart.eq]; exact hs
    exact tick_memoryCanonical htick hu
  · exact hs
  · exact hs
  · split <;> exact hs
  · exact memoryCanonical_storeRom s.params hrom

end Sys2Proof.Machine
end

section
/-! The Reset event: every field of R30 and the host's side (R62, R270). -/

namespace Sys2Proof.Machine

/-- Reset of a ROM that fits answers the power-on state with the ROM loaded, the ports and the rest of the queue kept (R271). -/
theorem step_reset {s : State} {rom : List Byte} {rest : List Event} (he : s.events = .reset rom :: rest)
    (hrom : rom.length ≤ Config.romMax) :
    step s = .next { (State.powerOn s.params).storeBytes Config.programBase rom with
      keys := s.keys, events := rest, result := s.result } := by
  simp [step, serveNext, serve, resetEvent, he, hrom]

/-- Settles O15: the fields are read off the power-on state; memory is the ROM over the reset contents. -/
theorem resetEventSetsEveryField : Obligations.ResetEventSetsEveryField := by
  intro s rom rest he hrom
  have hregs (r : RegIdx) : (State.powerOn s.params).v r = 0x00 := Vector.getElem_replicate ..
  have hstack (k : Nat) (h : k < 16) : (State.powerOn s.params).stack[k] = 0x000 := Vector.getElem_replicate ..
  have hoff (px : Fin 64) (py : Fin 32) :
      (State.powerOn s.params).fb.pixel px py = false ∧ (State.powerOn s.params).dirty.pixel px py = false :=
    ⟨pixel_all false px py, pixel_all false px py⟩
  exact ⟨_, step_reset he hrom, rfl, rfl, hregs, hstack, hoff,
    fun a => readByte_storeBytes_eq (State.powerOn s.params) Config.programBase a rom⟩

end Sys2Proof.Machine
end

section
/-! The bytes an instruction stores are the bytes the next Tick fetches (R71, R275). -/

namespace Sys2Proof.Machine

/-- The byte the spec gives after an instruction is the byte read once its run is stored (R173, R174). -/
theorem byteAfter_eq (i : Instr) (s : State) (a : Nat) :
    byteAfter i s a = (s.storeBytes s.idx.toNat (storedBytes i s)).readByte a := by
  rw [readByte_storeBytes_eq]
  cases i with
  | ldBVx x =>
    by_cases h : s.idx.toNat ≤ a ∧ a < s.idx.toNat + 3
    · have ha : a = s.idx.toNat ∨ a = s.idx.toNat + 1 ∨ a = s.idx.toNat + 2 := by omega
      obtain rfl | rfl | rfl := ha <;> simp [byteAfter, storedBytes, bcdDigits]
    · simp only [byteAfter]
      rw [if_neg (by omega), if_neg (by omega), if_neg (by omega)]
      exact (if_neg h).symm
  | ldIVx x =>
    simp only [byteAfter, movedCount_eq_transferCount, length_storedBytes_ldIVx]
    split
    · next h =>
      have hk : a - s.idx.toNat < 16 := by have := transferCount_le s x; omega
      have hlen : a - s.idx.toNat < (storedBytes (.ldIVx x) s).length := by rw [length_storedBytes_ldIVx]; omega
      have hfin : Fin.ofNat 16 (a - s.idx.toNat) = ⟨a - s.idx.toNat, hk⟩ := Fin.ext (Nat.mod_eq_of_lt hk)
      rw [hfin, List.getD_eq_getElem _ _ hlen]
      exact (getElem_firstRegs s _ ⟨a - s.idx.toNat, hk⟩ hlen).symm
    · rfl
  | _ => exact (if_neg (by simp only [storedBytes, List.length_nil]; omega)).symm

/-- Every byte after an instruction that completes; a fault does not return Ok, and entering the key-wait stores nothing. -/
theorem exec_readByte {i : Instr} {s t : State} (h : exec i s = .next t) (hok : t.result = some .ok) (a : Nat) :
    t.readByte a = byteAfter i s a := by
  obtain ⟨kind, info, -, rfl⟩ | ⟨x, rfl, -, rfl⟩ | ⟨u, hu, rfl⟩ := exec_cases h
  · cases hok
  · rfl
  · exact (hu.readByte_eq a).trans (byteAfter_eq i s a).symm

theorem exec_wordAtPc {i : Instr} {s t : State} (h : exec i s = .next t) (hok : t.result = some .ok) :
    wordAtPc t = wordAfter i s t.pc.toNat := by
  simp only [wordAtPc, wordAfter, exec_readByte h hok]

/-- A Tick of a running machine is the instruction it decodes (R105). -/
theorem tick_of_decoded {s : State} {i : Instr} (hh : s.halted = false) (hw : s.waitingForKey = none)
    (hp : s.pc.toNat ≤ 0xFFE) (hi : decodeWord (wordAtPc s) = .ok i) : tick s = exec i s := by
  simp [tick, hh, hw, fetch_of_inRange hp, hi]

/-- A step that starts a Tick of a running machine runs the instruction at PC, at the Tick's own key levels. -/
theorem step_of_decoded {s u : State} {i : Instr} (hstart : TickStarts s u) (hh : s.halted = false)
    (hw : s.waitingForKey = none) (hp : s.pc.toNat ≤ 0xFFE) (hi : decodeWord (wordAtPc s) = .ok i) : step s = exec i u := by
  have hu : tick u = exec i u := by
    rw [hstart.eq]
    exact tick_of_decoded hh hw hp hi
  exact (step_of_tickStarts hstart).trans hu

/-- Settles O37: the two bytes at PC are those the spec gives after `j`, and the Tick runs what they decode to. -/
theorem storedBytesAreFetchedNext : Obligations.StoredBytesAreFetchedNext := by
  intro s t u i j hexec hok hh hw hp hstart hi
  exact step_of_decoded hstart hh hw hp (by rw [exec_wordAtPc hexec hok, hi])

end Sys2Proof.Machine
end

section
/-! What an instruction leaves of memory, and when it cannot reach it (R60, R61, R66). -/

namespace Sys2Proof.Machine

/-- An address an instruction may not store to is outside the run it stores. -/
theorem outside_of_not_mayStore {i : Instr} {s : State} {a : Nat} (h : ¬ i.mayStore s a) :
    a < s.idx.toNat ∨ s.idx.toNat + (storedBytes i s).length ≤ a := by
  cases i with
  | ldBVx x =>
    simp only [Instr.mayStore, not_and, not_lt] at h
    simp only [storedBytes, length_bcdDigits]
    omega
  | ldIVx x =>
    simp only [Instr.mayStore, not_and, not_lt] at h
    rw [length_storedBytes_ldIVx]
    omega
  | _ => exact Nat.lt_or_ge a s.idx.toNat

/-- Settles O46: a fault and a key-wait leave memory alone, and a handler stores its run and nothing else. -/
theorem bytesOutsideStoresKept : Obligations.BytesOutsideStoresKept := by
  intro i s t a h ha
  obtain ⟨kind, info, -, rfl⟩ | ⟨x, -, -, rfl⟩ | ⟨u, hu, rfl⟩ := exec_cases h
  · rfl
  · rfl
  · exact (hu.readByte_eq a).trans (readByte_storeBytes_of_outside s _ a _ (outside_of_not_mayStore ha))

/-- Settles O36: each of the four checks its whole range before its body runs. -/
theorem outOfRangeAccessRaises : Obligations.OutOfRangeAccessRaises := by
  intro s x y n a
  rw [movedCount_eq_transferCount]
  refine ⟨fun hrange => ?_, fun hrange => ?_, fun hrange => ?_, fun hrange => ?_⟩
  · rw [exec, execDrw, withRangeCheck_of_outOfRange _ hrange]
  · rw [exec, execLdBVx, withRangeCheck_of_outOfRange _ hrange]
  · rw [exec, execLdIVx, withRangeCheck_of_outOfRange _ hrange]
  · rw [exec, execLdVxI, withRangeCheck_of_outOfRange _ hrange]

end Sys2Proof.Machine
end

section
/-! Words as numbers: the formats of R83 and the operand fields of R81 are hexadecimal digits of the word. -/

namespace Sys2Proof

theorem toNat_append_add {m n : Nat} (a : BitVec m) (b : BitVec n) : (a ++ b).toNat = a.toNat * 2 ^ n + b.toNat := by
  rw [BitVec.toNat_append, ← Nat.shiftLeft_add_eq_or_of_lt b.isLt, Nat.shiftLeft_eq]

/-- Parts of the same widths can be read back from a concatenation. -/
theorem append_eq_append_iff {m n : Nat} {a c : BitVec m} {b d : BitVec n} : a ++ b = c ++ d ↔ a = c ∧ b = d := by
  constructor
  · intro h
    have hlow : b = d := by simpa [BitVec.setWidth_append_eq_right] using congrArg (BitVec.setWidth n) h
    subst hlow
    exact ⟨(BitVec.append_left_inj b).1 h, rfl⟩
  · rintro ⟨rfl, rfl⟩
    rfl

theorem toNat_regBits (r : RegIdx) : (regBits r).toNat = r.val :=
  (BitVec.toNat_ofNat r.val 4).trans (Nat.mod_eq_of_lt r.isLt)

theorem toNat_formatA (op : BitVec 4) (nnn : Addr) : (formatA op nnn).toNat = op.toNat * 0x1000 + nnn.toNat :=
  toNat_append_add op nnn

theorem toNat_formatXK (op : BitVec 4) (x : RegIdx) (kk : Byte) :
    (formatXK op x kk).toNat = op.toNat * 0x1000 + x.val * 0x100 + kk.toNat := by
  simp only [formatXK, toNat_append_add, toNat_regBits]
  omega

theorem toNat_formatXY (op : BitVec 4) (x y : RegIdx) (f : BitVec 4) :
    (formatXY op x y f).toNat = op.toNat * 0x1000 + x.val * 0x100 + y.val * 0x10 + f.toNat := by
  simp only [formatXY, toNat_append_add, toNat_regBits]
  omega

/-- R81: a descriptor whose mask is a run of `bits` ones above `shift` reads a digit of the word. -/
theorem toNat_descriptor {mask : Word} {shift bits : Nat} (hmask : (mask >>> shift).toNat = 2 ^ bits - 1) (w : Word) :
    (descriptor mask shift w).toNat = w.toNat / 2 ^ shift % 2 ^ bits := by
  rw [descriptor, BitVec.ushiftRight_and_distrib, BitVec.toNat_and, hmask, Nat.and_two_pow_sub_one_eq_mod,
    BitVec.toNat_ushiftRight, Nat.shiftRight_eq_div_pow]

theorem val_fieldX (w : Word) : (fieldX w).val = w.toNat / 0x100 % 0x10 := by
  have h : (descriptor 0x0F00 8 w).toNat = w.toNat / 0x100 % 0x10 := toNat_descriptor (bits := 4) rfl w
  change (descriptor 0x0F00 8 w).toNat % 0x10 = _
  omega

theorem val_fieldY (w : Word) : (fieldY w).val = w.toNat / 0x10 % 0x10 := by
  have h : (descriptor 0x00F0 4 w).toNat = w.toNat / 0x10 % 0x10 := toNat_descriptor (bits := 4) rfl w
  change (descriptor 0x00F0 4 w).toNat % 0x10 = _
  omega

theorem fieldN_eq (w : Word) : fieldN w = w.toNat % 0x10 := by
  have h : (descriptor 0x000F 0 w).toNat = w.toNat / 1 % 0x10 := toNat_descriptor (bits := 4) rfl w
  rw [fieldN, h, Nat.div_one]

theorem toNat_fieldKK (w : Word) : (fieldKK w).toNat = w.toNat % 0x100 := by
  have h : (descriptor 0x00FF 0 w).toNat = w.toNat / 1 % 0x100 := toNat_descriptor (bits := 8) rfl w
  rw [fieldKK, BitVec.toNat_setWidth]
  omega

theorem toNat_fieldNNN (w : Word) : (fieldNNN w).toNat = w.toNat % 0x1000 := by
  have h : (descriptor 0x0FFF 0 w).toNat = w.toNat / 1 % 0x1000 := toNat_descriptor (bits := 12) rfl w
  rw [fieldNNN, BitVec.toNat_setWidth]
  omega

/-! ### A format reads back its operands -/

@[simp] theorem fieldNNN_formatA (op : BitVec 4) (nnn : Addr) : fieldNNN (formatA op nnn) = nnn := by
  apply BitVec.eq_of_toNat_eq
  rw [toNat_fieldNNN, toNat_formatA]
  omega

@[simp] theorem fieldX_formatXK (op : BitVec 4) (x : RegIdx) (kk : Byte) : fieldX (formatXK op x kk) = x := by
  apply Fin.ext
  rw [val_fieldX, toNat_formatXK]
  omega

@[simp] theorem fieldKK_formatXK (op : BitVec 4) (x : RegIdx) (kk : Byte) : fieldKK (formatXK op x kk) = kk := by
  apply BitVec.eq_of_toNat_eq
  rw [toNat_fieldKK, toNat_formatXK]
  omega

@[simp] theorem fieldX_formatXY (op : BitVec 4) (x y : RegIdx) (f : BitVec 4) : fieldX (formatXY op x y f) = x := by
  apply Fin.ext
  rw [val_fieldX, toNat_formatXY]
  omega

@[simp] theorem fieldY_formatXY (op : BitVec 4) (x y : RegIdx) (f : BitVec 4) : fieldY (formatXY op x y f) = y := by
  apply Fin.ext
  rw [val_fieldY, toNat_formatXY]
  omega

@[simp] theorem fieldN_formatXY (op : BitVec 4) (x y : RegIdx) (f : BitVec 4) : fieldN (formatXY op x y f) = f.toNat := by
  rw [fieldN_eq, toNat_formatXY]
  omega

/-- The literal byte of format X stands where format XK has its operand. -/
theorem formatX_eq_formatXK (op : BitVec 4) (x : RegIdx) (ff : Byte) : formatX op x ff = formatXK op x ff := rfl

@[simp] theorem fieldX_formatX (op : BitVec 4) (x : RegIdx) (ff : Byte) : fieldX (formatX op x ff) = x :=
  fieldX_formatXK op x ff

/-! ### A word is written by its digits, in every format -/

/-- The most significant digit of a word, the operation code of every format (R83). -/
def topNibble (w : Word) : BitVec 4 := BitVec.ofNat 4 (w.toNat / 0x1000)

theorem toNat_topNibble (w : Word) : (topNibble w).toNat = w.toNat / 0x1000 := by
  rw [topNibble, BitVec.toNat_ofNat]
  omega

theorem formatA_fields (w : Word) : formatA (topNibble w) (fieldNNN w) = w := by
  apply BitVec.eq_of_toNat_eq
  rw [toNat_formatA, toNat_topNibble, toNat_fieldNNN]
  omega

theorem formatXK_fields (w : Word) : formatXK (topNibble w) (fieldX w) (fieldKK w) = w := by
  apply BitVec.eq_of_toNat_eq
  rw [toNat_formatXK, toNat_topNibble, val_fieldX, toNat_fieldKK]
  omega

theorem formatXY_fields (w : Word) : formatXY (topNibble w) (fieldX w) (fieldY w) (BitVec.ofNat 4 (fieldN w)) = w := by
  apply BitVec.eq_of_toNat_eq
  rw [toNat_formatXY, toNat_topNibble, val_fieldX, val_fieldY, BitVec.toNat_ofNat, fieldN_eq]
  omega

/-! ### A mask of R86 fixes the literal digits of its format and nothing else -/

theorem and_eq_iff_formatA {op : BitVec 4} {w : Word} : w &&& 0xF000 = op ++ 0#12 ↔ formatA op (fieldNNN w) = w := by
  constructor <;> intro h
  · rw [← formatA_fields w, Laws.formatA_and, BitVec.append_left_inj] at h
    rw [← h, formatA_fields]
  · rw [← h, Laws.formatA_and]

theorem and_eq_iff_formatXK {op : BitVec 4} {w : Word} :
    w &&& 0xF000 = op ++ 0#4 ++ 0#8 ↔ formatXK op (fieldX w) (fieldKK w) = w := by
  constructor <;> intro h
  · rw [← formatXK_fields w, Laws.formatXK_and, BitVec.append_left_inj, BitVec.append_left_inj] at h
    rw [← h, formatXK_fields]
  · rw [← h, Laws.formatXK_and]

theorem and_eq_iff_formatXY {op f : BitVec 4} {w : Word} :
    w &&& 0xF00F = op ++ 0#4 ++ 0#4 ++ f ↔ formatXY op (fieldX w) (fieldY w) f = w := by
  constructor <;> intro h
  · rw [← formatXY_fields w, Laws.formatXY_and] at h
    simp only [append_eq_append_iff, and_true] at h
    obtain ⟨hop, hf⟩ := h
    rw [← hop, ← hf, formatXY_fields]
  · rw [← h, Laws.formatXY_and]

theorem and_eq_iff_formatXYN {op : BitVec 4} {w : Word} :
    w &&& 0xF000 = op ++ 0#4 ++ 0#4 ++ 0#4 ↔ formatXY op (fieldX w) (fieldY w) (BitVec.ofNat 4 (fieldN w)) = w := by
  constructor <;> intro h
  · rw [← formatXY_fields w, Laws.formatXYN_and] at h
    simp only [append_eq_append_iff, and_true] at h
    rw [← h, formatXY_fields]
  · rw [← h, Laws.formatXYN_and]

theorem and_eq_iff_formatX {op : BitVec 4} {ff : Byte} {w : Word} :
    w &&& 0xF0FF = op ++ 0#4 ++ ff ↔ formatX op (fieldX w) ff = w := by
  constructor <;> intro h
  · rw [← formatXK_fields w, ← formatX_eq_formatXK, Laws.formatX_and] at h
    simp only [append_eq_append_iff, and_true] at h
    obtain ⟨hop, hff⟩ := h
    rw [← hop, ← hff, formatX_eq_formatXK, formatXK_fields]
  · rw [← h, Laws.formatX_and]

end Sys2Proof
end

section
/-! The rows of R86 against the encoder: each fits the words of its own instruction, and no two fit one word.  The round trips
of decoder and encoder follow. -/

namespace Sys2Proof

/-- A row matches exactly the words that encode the instruction it builds (R83, R87). -/
def Row.Exact (r : Row) : Prop := ∀ w : Word, r.fits w = true ↔ encode (r.build w) = w

theorem exact_literal {p : Word} {i : Instr} (henc : encode i = p) : Row.Exact ⟨0xFFFF, p, fun _ => i⟩ := by
  intro w
  have hones : w &&& 0xFFFF = w := BitVec.and_allOnes
  rw [Row.fits_iff, hones, henc, eq_comm]

theorem exact_formatA {op : BitVec 4} {p : Word} {b : Addr → Instr} (henc : ∀ nnn, encode (b nnn) = formatA op nnn)
    (hp : p = op ++ 0#12) : Row.Exact ⟨0xF000, p, fun w => b (fieldNNN w)⟩ := by
  intro w
  rw [Row.fits_iff, henc, hp, and_eq_iff_formatA]

theorem exact_formatXK {op : BitVec 4} {p : Word} {b : RegIdx → Byte → Instr}
    (henc : ∀ x kk, encode (b x kk) = formatXK op x kk) (hp : p = op ++ 0#4 ++ 0#8) :
    Row.Exact ⟨0xF000, p, fun w => b (fieldX w) (fieldKK w)⟩ := by
  intro w
  rw [Row.fits_iff, henc, hp, and_eq_iff_formatXK]

theorem exact_formatXY {op f : BitVec 4} {p : Word} {b : RegIdx → RegIdx → Instr}
    (henc : ∀ x y, encode (b x y) = formatXY op x y f) (hp : p = op ++ 0#4 ++ 0#4 ++ f) :
    Row.Exact ⟨0xF00F, p, fun w => b (fieldX w) (fieldY w)⟩ := by
  intro w
  rw [Row.fits_iff, henc, hp, and_eq_iff_formatXY]

theorem exact_formatXYN {op : BitVec 4} {p : Word} {b : RegIdx → RegIdx → Nat → Instr}
    (henc : ∀ x y n, encode (b x y n) = formatXY op x y (BitVec.ofNat 4 n)) (hp : p = op ++ 0#4 ++ 0#4 ++ 0#4) :
    Row.Exact ⟨0xF000, p, fun w => b (fieldX w) (fieldY w) (fieldN w)⟩ := by
  intro w
  rw [Row.fits_iff, henc, hp, and_eq_iff_formatXYN]

theorem exact_formatX {op : BitVec 4} {ff : Byte} {p : Word} {b : RegIdx → Instr}
    (henc : ∀ x, encode (b x) = formatX op x ff) (hp : p = op ++ 0#4 ++ ff) :
    Row.Exact ⟨0xF0FF, p, fun w => b (fieldX w)⟩ := by
  intro w
  rw [Row.fits_iff, henc, hp, and_eq_iff_formatX]

/-- The rows of R86, each by its format (R83). -/
theorem exact_of_mem : ∀ r ∈ instructionTable, r.Exact := List.forall_iff_forall_mem.1
  ⟨exact_literal rfl, exact_literal rfl,
   exact_formatA (fun _ => rfl) rfl, exact_formatA (fun _ => rfl) rfl,
   exact_formatXK (fun _ _ => rfl) rfl, exact_formatXK (fun _ _ => rfl) rfl,
   exact_formatXY (fun _ _ => rfl) rfl,
   exact_formatXK (fun _ _ => rfl) rfl, exact_formatXK (fun _ _ => rfl) rfl,
   exact_formatXY (fun _ _ => rfl) rfl, exact_formatXY (fun _ _ => rfl) rfl, exact_formatXY (fun _ _ => rfl) rfl,
   exact_formatXY (fun _ _ => rfl) rfl, exact_formatXY (fun _ _ => rfl) rfl, exact_formatXY (fun _ _ => rfl) rfl,
   exact_formatXY (fun _ _ => rfl) rfl, exact_formatXY (fun _ _ => rfl) rfl, exact_formatXY (fun _ _ => rfl) rfl,
   exact_formatXY (fun _ _ => rfl) rfl,
   exact_formatA (fun _ => rfl) rfl, exact_formatA (fun _ => rfl) rfl,
   exact_formatXK (fun _ _ => rfl) rfl,
   exact_formatXYN (fun _ _ _ => rfl) rfl,
   exact_formatX (fun _ => rfl) rfl, exact_formatX (fun _ => rfl) rfl, exact_formatX (fun _ => rfl) rfl,
   exact_formatX (fun _ => rfl) rfl, exact_formatX (fun _ => rfl) rfl, exact_formatX (fun _ => rfl) rfl,
   exact_formatX (fun _ => rfl) rfl, exact_formatX (fun _ => rfl) rfl, exact_formatX (fun _ => rfl) rfl,
   exact_formatX (fun _ => rfl) rfl, exact_formatX (fun _ => rfl) rfl⟩

/-- The row with an instruction's pattern reads the instruction's operands back from its word. -/
theorem exists_row_build_encode {i : Instr} (hi : i.wf = true) :
    ∃ r, instructionTable.find? (·.pat == (Laws.fixedBits i).2) = some r ∧ r.build (encode i) = i := by
  cases i with
  | drw x y n =>
    have hn : n < 16 := Nat.lt_succ_of_le (by simpa [Instr.wf] using hi)
    exact ⟨_, rfl, by simp [encode, hn]⟩
  | _ => exact ⟨_, rfl, by simp [encode]⟩

/-- The one operand a word could make ill-formed is DRW's count, a digit of the word. -/
theorem wf_build (w : Word) : ∀ r ∈ instructionTable, (r.build w).wf = true := by
  have hn : fieldN w ≤ 15 := by rw [fieldN_eq]; omega
  simp [instructionTable, tableControl, tableAlu, tableRest, Instr.wf, hn]

/-- R88: wherever the masks of two rows overlap, their patterns differ. -/
theorem rows_disjoint : instructionTable.Pairwise fun r q => r.pat &&& q.mask ≠ q.pat &&& r.mask := by decide

/-- A word that fits both rows would have both patterns where the masks overlap. -/
theorem not_fits_of_lt {j k : Nat} {r q : Row} {w : Word} (hj : instructionTable[j]? = some r)
    (hk : instructionTable[k]? = some q) (hlt : j < k) (hr : r.fits w = true) : q.fits w ≠ true := by
  obtain ⟨hjlen, rfl⟩ := List.getElem?_eq_some_iff.1 hj
  obtain ⟨hklen, rfl⟩ := List.getElem?_eq_some_iff.1 hk
  intro hq
  apply List.pairwise_iff_getElem.1 rows_disjoint j k hjlen hklen hlt
  rw [← (Row.fits_iff _ w).1 hr, ← (Row.fits_iff _ w).1 hq, BitVec.and_assoc, BitVec.and_assoc, BitVec.and_comm (Row.mask _)]

/-- Settles O3: of two positions one is the smaller, and the later row does not fit what the earlier one fits. -/
theorem noWordFitsTwoRows : Obligations.NoWordFitsTwoRows := by
  refine ⟨rfl, fun w j k r q hj hk hr hq => ?_⟩
  obtain hlt | heq | hgt := Nat.lt_trichotomy j k
  · exact absurd hq (not_fits_of_lt hj hk hlt hr)
  · exact heq
  · exact absurd hr (not_fits_of_lt hk hj hgt hq)

theorem eq_of_fits {r q : Row} {w : Word} (hr : r ∈ instructionTable) (hq : q ∈ instructionTable) (hrw : r.fits w = true)
    (hqw : q.fits w = true) : r = q := by
  obtain ⟨j, hj⟩ := List.mem_iff_getElem?.1 hr
  obtain ⟨k, hk⟩ := List.mem_iff_getElem?.1 hq
  have hjk : j = k := noWordFitsTwoRows.2 w j k r q hj hk hrw hqw
  exact Option.some.inj (by rw [← hj, ← hk, hjk])

/-- The order of the table does not matter: any row that fits is the one the decoder finds (R87, R88). -/
theorem decodeWord_of_fits {r : Row} {w : Word} (hr : r ∈ instructionTable) (hw : r.fits w = true) :
    decodeWord w = .ok (r.build w) := by
  cases hd : decodeWord w with
  | ok i =>
    obtain ⟨q, hq, hqw, rfl⟩ := decodeWord_eq_ok hd
    rw [eq_of_fits hr hq hw hqw]
  | error e =>
    have hno : r.fits w = false := (decodeWord_eq_error.1 hd).2 r hr
    simp [hw] at hno

/-- Settles O1: the row with the instruction's pattern builds it from its word, and so, being exact, fits that word. -/
theorem decodeOfEncodeGivesInstruction : Obligations.DecodeOfEncodeGivesInstruction := by
  intro i hi
  obtain ⟨r, hrow, hbuild⟩ := exists_row_build_encode hi
  have hr : r ∈ instructionTable := List.mem_of_find?_eq_some hrow
  have hfits : r.fits (encode i) = true := (exact_of_mem r hr (encode i)).2 (by rw [hbuild])
  rw [decodeWord_of_fits hr hfits, hbuild]

/-- Settles O2: the row the decoder found fits the word and is exact, and no row builds an ill-formed instruction. -/
theorem encodeOfDecodeGivesWord : Obligations.EncodeOfDecodeGivesWord := by
  intro w i hd
  obtain ⟨r, hr, hfits, rfl⟩ := decodeWord_eq_ok hd
  exact ⟨(exact_of_mem r hr w).1 hfits, wf_build w r hr⟩

end Sys2Proof
end

section
/-! The words that no row fits (R89), by their digits. -/

namespace Sys2Proof

/-! ### When a word is its own fields under a format's literal digits -/

theorem formatA_fields_eq_iff {op : BitVec 4} {w : Word} : formatA op (fieldNNN w) = w ↔ w.toNat / 0x1000 = op.toNat := by
  rw [← BitVec.toNat_inj, toNat_formatA, toNat_fieldNNN]
  omega

theorem formatXK_fields_eq_iff {op : BitVec 4} {w : Word} :
    formatXK op (fieldX w) (fieldKK w) = w ↔ w.toNat / 0x1000 = op.toNat := by
  rw [← BitVec.toNat_inj, toNat_formatXK, val_fieldX, toNat_fieldKK]
  omega

theorem formatXY_fields_eq_iff {op f : BitVec 4} {w : Word} :
    formatXY op (fieldX w) (fieldY w) f = w ↔ w.toNat / 0x1000 = op.toNat ∧ w.toNat % 0x10 = f.toNat := by
  rw [← BitVec.toNat_inj, toNat_formatXY, val_fieldX, val_fieldY]
  omega

theorem formatX_fields_eq_iff {op : BitVec 4} {ff : Byte} {w : Word} :
    formatX op (fieldX w) ff = w ↔ w.toNat / 0x1000 = op.toNat ∧ w.toNat % 0x100 = ff.toNat := by
  rw [formatX_eq_formatXK, ← BitVec.toNat_inj, toNat_formatXK, val_fieldX]
  omega

/-- A word without operands; its first digit is named so that every row asks something of it. -/
theorem literal_eq_iff {n : Nat} {w : Word} (hn : n < 2 ^ 16) :
    BitVec.ofNat 16 n = w ↔ w.toNat / 0x1000 = n / 0x1000 ∧ w.toNat = n := by
  rw [← BitVec.toNat_inj, BitVec.toNat_ofNat]
  omega

/-- The decoder refuses a word exactly when every row would build the instruction of another word. -/
theorem unknownOpcode_iff {w : Word} :
    decodeWord w = .error (.unknownOpcode w) ↔ ∀ r ∈ instructionTable, encode (r.build w) ≠ w := by
  simp only [decodeWord_eq_error, true_and, ← Bool.not_eq_true]
  exact forall₂_congr fun r hr => not_congr (exact_of_mem r hr w)

/-- What the rows, from 00E0 to Fx65, leave to a word that fits none of them. -/
theorem unknownOpcode_iff_digits {w : Word} : decodeWord w = .error (.unknownOpcode w) ↔
    let top := w.toNat / 0x1000
    let low := w.toNat % 0x10
    let byte := w.toNat % 0x100
    (top = 0x0 → w.toNat ≠ 0x00E0 ∧ w.toNat ≠ 0x00EE) ∧
    top ∉ [0x1, 0x2, 0x3, 0x4] ∧
    (top = 0x5 → low ≠ 0) ∧
    top ∉ [0x6, 0x7] ∧
    (top = 0x8 → low ∉ [0x0, 0x1, 0x2, 0x3, 0x4, 0x5, 0x6, 0x7, 0xE]) ∧
    (top = 0x9 → low ≠ 0) ∧
    top ∉ [0xA, 0xB, 0xC, 0xD] ∧
    (top = 0xE → byte ∉ [0x9E, 0xA1]) ∧
    (top = 0xF → byte ∉ [0x07, 0x0A, 0x15, 0x18, 0x1E, 0x29, 0x33, 0x55, 0x65]) := by
  rw [unknownOpcode_iff]
  simp [instructionTable, tableControl, tableAlu, tableRest, encode, literal_eq_iff, formatA_fields_eq_iff,
    formatXK_fields_eq_iff, formatXY_fields_eq_iff, formatX_fields_eq_iff, fieldN_eq, imp_and, and_assoc, -Nat.div_eq_zero_iff]

/-- Settles O4, by the first digit: what the rows leave under each is what R89 lists. -/
theorem undecodableWordsAreTheIllegalOnes : Obligations.UndecodableWordsAreTheIllegalOnes := by
  intro w
  rw [unknownOpcode_iff_digits]
  have htop : w.toNat / 0x1000 < 0x10 := by omega
  have hlow : w.toNat % 0x10 < 0x10 := Nat.mod_lt _ (by decide)
  generalize w.toNat / 0x1000 = top at *
  generalize w.toNat % 0x10 = low at *
  interval_cases top <;> simp
  -- Only 8xyN is left: its listed low digits, legal and illegal, are all sixteen.
  omega

/-- Settles O5: seven are words of instructions, by the round trip; two are on R89's list. -/
theorem writtenOutWordsDecode : Obligations.WrittenOutWordsDecode :=
  have hdecode := decodeOfEncodeGivesInstruction
  have hunknown := undecodableWordsAreTheIllegalOnes
  ⟨hdecode .ret rfl, hdecode (.callAddr 0xA4C) rfl, hdecode (.seImm 0xA 0x42) rfl, hdecode (.subn 0xB 0x5) rfl,
    hdecode (.drw 0x3 0xC 9) rfl, hdecode (.sknp 0x6) rfl, hdecode (.ldVxI 0x7) rfl, (hunknown 0x0123).2 (by decide),
    (hunknown 0x5121).2 (by decide)⟩

end Sys2Proof
end

section
/-! A Tick by what it finds (R101–R105, R114): halted, a fetch outside memory, a word of no row, or an instruction to run. -/

namespace Sys2Proof.Machine

theorem TickStarts.halted_eq {s t : State} (h : TickStarts s t) : t.halted = s.halted := by rw [h.eq]

theorem TickStarts.waitingForKey_eq {s t : State} (h : TickStarts s t) : t.waitingForKey = s.waitingForKey := by rw [h.eq]

theorem TickStarts.pc_eq {s t : State} (h : TickStarts s t) : t.pc = s.pc := by rw [h.eq]

theorem TickStarts.wordAtPc_eq {s t : State} (h : TickStarts s t) : wordAtPc t = wordAtPc s := by
  rw [h.eq]
  rfl

/-- The event served leaves the queue; an empty queue stays empty. -/
theorem TickStarts.events_eq {s t : State} (h : TickStarts s t) : t.events = s.events.tail := by
  obtain ⟨he, rfl⟩ | ⟨keys, rest, he, rfl⟩ := h <;> simp [he]

theorem tick_of_halted {s : State} (hh : s.halted = true) : tick s = .next { s with result := some (.halted s.err) } := by
  simp [tick, hh]

theorem tick_of_fetchFault {s : State} (hh : s.halted = false) (hw : s.waitingForKey = none) (hp : 0xFFF ≤ s.pc.toNat) :
    tick s = .next (faulted .addressOutOfRange (BitVec.ofNat 16 (max s.pc.toNat 0x1000)) s) := by
  simp [tick, hh, hw, fetch_of_outOfRange hp, raise_eq]

theorem tick_of_undecodable {s : State} (hh : s.halted = false) (hw : s.waitingForKey = none) (hp : s.pc.toNat ≤ 0xFFE)
    (hno : ∀ r ∈ instructionTable, r.fits (wordAtPc s) = false) :
    tick s = .next (faulted .unknownOpcode (wordAtPc s) s) := by
  have hdecode : decodeWord (wordAtPc s) = .error (.unknownOpcode (wordAtPc s)) := decodeWord_eq_error.2 ⟨rfl, hno⟩
  simp [tick, hh, hw, fetch_of_inRange hp, hdecode, raise_eq]

/-- Settles O6: starting the Tick writes no byte and not PC, so the word decoded is the one of the state before. -/
theorem stepRunsTheDecodedInstruction : Obligations.StepRunsTheDecodedInstruction := by
  intro s t i hstart hh hw hp hi
  rw [hstart.wordAtPc_eq] at hi
  exact step_of_decoded hstart hh hw hp hi

/-- Settles O7: a word that fits no row is a decode error, which raises. -/
theorem undecodableWordHalts : Obligations.UndecodableWordHalts := by
  intro s t hstart hh hw hp hno
  rw [← hstart.halted_eq] at hh
  rw [← hstart.waitingForKey_eq] at hw
  rw [← hstart.pc_eq] at hp
  exact (step_of_tickStarts hstart).trans (tick_of_undecodable hh hw hp hno)

/-- Settles O8: PC at 0xFFF fails at its second byte, PC above it at its first, which is the maximum of PC and 0x1000. -/
theorem fetchAboveMemoryHalts : Obligations.FetchAboveMemoryHalts := by
  intro s t a hstart hh hw hp ha
  rw [← hstart.halted_eq] at hh
  rw [← hstart.waitingForKey_eq] at hw
  rw [← hstart.pc_eq] at hp ha
  rw [step_of_tickStarts hstart, tick_of_fetchFault hh hw hp, ← ha, BitVec.ofNat_toNat, BitVec.setWidth_eq]

/-- Settles O9: the halt latch is tested first, before the key-wait and the fetch (R233). -/
theorem haltedTickWritesNothing : Obligations.HaltedTickWritesNothing := by
  intro s t hstart hh
  have herr : t.err = s.err := by rw [hstart.eq]
  rw [← hstart.halted_eq] at hh
  rw [step_of_tickStarts hstart, tick_of_halted hh, herr]

end Sys2Proof.Machine
end

section
/-! A fault writes `halted`, ERR and the result alone (R111, R231), and a halted machine keeps its state until Reset (R236). -/

namespace Sys2Proof.Machine

/-- A result names one fault, so a faulted state with that result is the fault entry of the kind and information it names. -/
theorem faulted_eq_of_result {k kind : FaultKind} {n info : Word} {s : State}
    (h : (faulted k n s).result = some (.fault kind info)) : faulted k n s = faulted kind info s := by
  cases h
  rfl

/-- An instruction that returns Fault(K, v) has entered that fault: one that waits or completes returns Ok. -/
theorem exec_eq_faulted_of_result {i : Instr} {s t : State} {kind : FaultKind} {info : Word} (h : exec i s = .next t)
    (hres : t.result = some (.fault kind info)) : t = faulted kind info s := by
  obtain ⟨k, n, -, rfl⟩ | ⟨x, -, -, rfl⟩ | ⟨u, hu, rfl⟩ := exec_cases h
  · exact faulted_eq_of_result hres
  · cases hres
  · cases hres

/-- A Tick that returns Fault(K, v) has entered that fault in the state it started from. -/
theorem tick_eq_faulted_of_result {s t : State} {kind : FaultKind} {info : Word} (h : tick s = .next t)
    (hres : t.result = some (.fault kind info)) : t = faulted kind info s := by
  obtain ⟨-, rfl⟩ | ⟨-, r, -, hwait⟩ | ⟨-, -, hfetch⟩ := tick_cases h
  · cases hres
  · obtain ⟨k, -, rfl⟩ | ⟨-, rfl⟩ := hwait <;> cases hres
  · obtain ⟨a, -, rfl⟩ | ⟨-, rfl⟩ | ⟨-, i, -, hexec⟩ := hfetch
    · exact faulted_eq_of_result hres
    · exact faulted_eq_of_result hres
    · exact exec_eq_faulted_of_result hexec hres

/-- Settles O48: the step is the Tick, and a Tick that returns a fault has entered it. -/
theorem faultsArePrecise : Obligations.FaultsArePrecise := by
  intro s t u kind info hstart h hres
  rw [step_of_tickStarts hstart] at h
  exact tick_eq_faulted_of_result h hres

/-- Settles O53: a halted Tick writes the result, Pause sets a latch already set, Present writes DIRTY and its copy, and a
TimerStrobe does not decay halted timers. -/
theorem haltedStateSurvivesUntilReset : Obligations.HaltedStateSurvivesUntilReset := by
  intro s t hh hnoReset h
  obtain ⟨u, hstart, -⟩ | ⟨rest, he, rfl⟩ | ⟨rest, he, rfl⟩ | ⟨rest, he, -, rfl⟩ | ⟨rom, rest, he, -, -⟩ := step_cases h
  · rw [haltedTickWritesNothing s u hstart hh] at h
    cases h
    rw [← hstart.events_eq, hstart.eq]
    exact ⟨rfl, .inl rfl⟩
  · rw [he, ← hh]
    exact ⟨rfl, .inl rfl⟩
  · rw [he]
    exact ⟨rfl, .inr ⟨rest, rfl⟩⟩
  · rw [if_pos hh, he]
    exact ⟨rfl, .inl rfl⟩
  · exact (hnoReset rom rest he).elim

end Sys2Proof.Machine
end

section
/-! Every instruction answers a next state, and raises when its condition holds (R105, R230). -/

namespace Sys2Proof.Machine

theorem withRangeCheck_next {c : Nat} {s : State} {body : State → Result} (hbody : ∃ t, body s = .next t) :
    ∃ t, withRangeCheck c s body = .next t := by
  obtain hc | ⟨a, hc⟩ := inRange_or_outOfRange s c
  · rw [withRangeCheck_of_inRange _ hc]
    exact hbody
  · exact ⟨_, withRangeCheck_of_outOfRange _ hc⟩

/-- No instruction stops or is refused: each branch of a handler is an ending or a fault entry. -/
theorem exec_next (i : Instr) (s : State) : ∃ t, exec i s = .next t := by
  cases i with
  | ret =>
    rw [exec, execRet]
    split
    · split <;> exact ⟨_, rfl⟩
    · exact ⟨_, rfl⟩
  | callAddr | ldFVx | skp | sknp | ldVxK =>
    simp only [exec, execCallAddr, execLdFVx, execSkp, execSknp, execLdVxK]
    split <;> exact ⟨_, rfl⟩
  | drw | ldBVx | ldIVx | ldVxI =>
    simp only [exec, execDrw, execLdBVx, execLdIVx, execLdVxI]
    exact withRangeCheck_next ⟨_, rfl⟩
  | _ => exact ⟨_, rfl⟩

theorem setWidth_byte_eq {b : Byte} {w : Word} (h : w.toNat = b.toNat) : b.setWidth 16 = w :=
  BitVec.eq_of_toNat_eq ((toNat_setWidth_byte b).trans h.symm)

/-- An instruction whose fault condition holds raises that fault. -/
theorem exec_of_raises {i : Instr} {s : State} {kind : FaultKind} {info : Word} (h : Raises i s kind info) :
    exec i s = .next (faulted kind info s) := by
  cases i with
  | callAddr | ret =>
    obtain ⟨hdepth, rfl, rfl⟩ := h
    exact dif_neg (by omega)
  | skp x | sknp x =>
    obtain ⟨hv, rfl, hinfo⟩ := h
    simp only [exec, execSkp, execSknp, namedKey_eq_none.2 hv, setWidth_byte_eq hinfo, raise_eq]
  | ldFVx x =>
    obtain ⟨hv, rfl, hinfo⟩ := h
    rw [exec, execLdFVx, if_pos hv, setWidth_byte_eq hinfo, raise_eq]
  | drw | ldBVx | ldIVx | ldVxI =>
    obtain ⟨hrange, rfl⟩ := h
    simp only [exec, execDrw, execLdBVx, execLdIVx, execLdVxI]
    exact withRangeCheck_of_outOfRange _ hrange
  | _ => exact h.elim

/-- Settles O50: what raises does not return Ok, and what does not raise waits or completes, which does. -/
theorem everyInstructionCompletesOrRaises : Obligations.EveryInstructionCompletesOrRaises := by
  intro i s
  obtain ⟨t, ht⟩ := exec_next i s
  refine ⟨t, ht, ?_, ?_⟩
  · rintro hok ⟨kind, info, hraises⟩
    rw [exec_of_raises hraises] at ht
    cases ht
    cases hok
  · intro hnone
    obtain ⟨kind, info, hraises, -⟩ | ⟨x, -, -, rfl⟩ | ⟨u, -, rfl⟩ := exec_cases ht
    · exact (hnone ⟨kind, info, hraises⟩).elim
    · rfl
    · rfl

end Sys2Proof.Machine
end

section
/-! I, RNGSTATE, the timers and the host's side in an instruction (R34, R37, R43), beside the frame of its handler. -/

namespace Sys2Proof.Machine

/-- What `HandlerFrame` does not say: who writes I, RNGSTATE and the timers, and that none writes KEYS or the queue. -/
structure HandlerKeeps (i : Instr) (s u : State) : Prop where
  idx    : ¬ i.writesI → u.idx = s.idx
  rng    : ¬ i.drawsByte → u.rng = s.rng
  dt     : (∀ x, i ≠ .ldDtVx x) → u.dt = s.dt
  st     : (∀ x, i ≠ .ldStVx x) → u.st = s.st
  keys   : u.keys = s.keys
  events : u.events = s.events

/-- A handler that writes at most memory, registers, PC, the stack and the screen. -/
theorem HandlerKeeps.of_eq {i : Instr} {s u : State}
    (h : u = { s with
      mem := u.mem, regs := u.regs, pc := u.pc, depth := u.depth, stack := u.stack, fb := u.fb, dirty := u.dirty }) :
    HandlerKeeps i s u := by
  rw [h]
  exact ⟨fun _ => rfl, fun _ => rfl, fun _ => rfl, fun _ => rfl, rfl, rfl⟩

theorem HandlerLeaves.keeps {i : Instr} {s u : State} (h : HandlerLeaves i s u) : HandlerKeeps i s u := by
  cases i with
  | ldIAddr | addIVx | ldFVx =>
    obtain ⟨a, rfl⟩ := h
    exact ⟨fun hi => (hi trivial).elim, fun _ => rfl, fun _ => rfl, fun _ => rfl, rfl, rfl⟩
  | rnd =>
    obtain rfl := h
    exact ⟨fun _ => rfl, fun hr => (hr trivial).elim, fun _ => rfl, fun _ => rfl, rfl, rfl⟩
  | ldDtVx x =>
    obtain rfl := h
    exact ⟨fun _ => rfl, fun _ => rfl, fun hd => (hd x rfl).elim, fun _ => rfl, rfl, rfl⟩
  | ldStVx x =>
    obtain rfl := h
    exact ⟨fun _ => rfl, fun _ => rfl, fun _ => rfl, fun hs => (hs x rfl).elim, rfl, rfl⟩
  | drw x y n =>
    obtain rfl := h
    exact .of_eq (by rw [(drawSprite_frame x y n s).1])
  | addReg | sub | shr | subn | shl =>
    obtain ⟨f, g, rfl⟩ := h
    exact .of_eq rfl
  | ret | callAddr | seImm | sneImm | seReg | sneReg | skp | sknp | ldImm | addImm | ldReg | orReg | andReg | xorReg
  | ldVxDt | ldVxK | ldBVx | ldIVx =>
    obtain ⟨_, rfl⟩ := h
    exact .of_eq rfl
  | cls | jmpAddr | jpV0Addr | ldVxI =>
    obtain rfl := h
    exact .of_eq rfl

/-- Settles O47: a fault writes `halted` and ERR, and does not return Ok; Fx0A writes the wait it enters; and an instruction that
completes decays the timers its handler left. -/
theorem specialStateKept : Obligations.SpecialStateKept := by
  intro i s t h
  obtain ⟨kind, info, -, rfl⟩ | ⟨x, rfl, -, rfl⟩ | ⟨u, hu, rfl⟩ := exec_cases h
  · exact ⟨fun _ => rfl, fun _ => ⟨rfl, rfl⟩, fun _ => ⟨rfl, rfl⟩, fun _ => rfl, fun _ => .inl rfl, fun _ => .inl rfl,
      fun _ => rfl, nofun, rfl, rfl, rfl, rfl⟩
  · exact ⟨fun _ => rfl, fun _ => ⟨rfl, rfl⟩, fun _ => ⟨rfl, rfl⟩, fun _ => rfl, fun _ => .inl rfl, fun _ => .inl rfl,
      fun hk => (hk x rfl).elim, fun _ => ⟨rfl, rfl⟩, rfl, rfl, rfl, rfl⟩
  · have hframe := hu.frame
    have hkeeps := hu.keeps
    have htimer {t₀ t₁ : Byte} (ht : t₁ = t₀) :
        timerAfterTick u.params.timerMode t₁ = timerAfterTick s.params.timerMode t₀ := by rw [hu.params_eq, ht]
    exact ⟨hkeeps.idx, hframe.stack, hframe.screen, hkeeps.rng, fun hd => .inr (htimer (hkeeps.dt hd)),
      fun hs => .inr (htimer (hkeeps.st hs)), fun _ => hframe.waitingForKey, fun _ => ⟨hframe.halted, hframe.err⟩,
      hu.params_eq, hkeeps.keys, hkeeps.events, hframe.presented⟩

end Sys2Proof.Machine
end

section
/-! The skips (R108, R123–R126): the extra 2 of a skip and the auto-advance together move PC by 4. -/

namespace Sys2Proof.Machine

theorem endNormal_skipIf (c : Bool) (s : State) :
    endNormal (skipIf c s) = .next (completedAt (s.pc + if c then 4 else 2) s) := by
  rw [endNormal_eq]
  cases c with
  | false => rfl
  | true =>
    have hpc : s.pc + 4 = s.pc + 2 + 2 := by bv_omega
    rw [if_pos rfl, hpc]
    rfl

/-- A skip on equality moves PC by 4 when the operands are equal. -/
theorem endNormal_skipIf_beq (a b : Byte) (s : State) :
    endNormal (skipIf (a == b) s) = .next (completedAt (s.pc + if a = b then 4 else 2) s) := by
  simp only [endNormal_skipIf, beq_iff_eq]

/-- A skip on inequality moves PC by 2 when the operands are equal. -/
theorem endNormal_skipIf_bne (a b : Byte) (s : State) :
    endNormal (skipIf (a != b) s) = .next (completedAt (s.pc + if a = b then 2 else 4) s) := by
  simp only [endNormal_skipIf, bne_iff_ne, ne_eq, ite_not]

/-- Settles O28: the four compares are skips on equality and on inequality; past a skip at 0xFFC, PC is 0x1000. -/
theorem compareSkipsMovePcByFourOrTwo : Obligations.CompareSkipsMovePcByFourOrTwo := by
  intro s x y kk
  refine ⟨endNormal_skipIf_beq .., endNormal_skipIf_bne .., endNormal_skipIf_beq .., endNormal_skipIf_bne .., fun hpc => ?_⟩
  have hnext : (completedAt (s.pc + 4) s).pc = 0x1000 := congrArg (· + 4) hpc
  rw [fetch_of_outOfRange (by rw [hnext]; decide), hnext]
  rfl

end Sys2Proof.Machine
end

section
/-! Jumps, CALL and RET (R120–R122, R127): where each leaves PC, and what CALL and RET do to the stack. -/

namespace Sys2Proof.Machine

/-! ### The answer of each instruction -/

theorem exec_jmpAddr (nnn : Addr) (s : State) : exec (.jmpAddr nnn) s = .next (completedAt (nnn.setWidth 16) s) :=
  endPcSet_eq _

theorem exec_jpV0Addr (nnn : Addr) (s : State) :
    exec (.jpV0Addr nnn) s = .next (completedAt (nnn.setWidth 16 + (s.v 0).setWidth 16) s) :=
  endPcSet_eq _

theorem exec_callAddr_of_room {s : State} (nnn : Addr) (hd : s.depth.val < 16) :
    exec (.callAddr nnn) s = .next (completedAt (nnn.setWidth 16) (push s (s.pc.setWidth 12) hd)) :=
  (dif_pos hd).trans (endPcSet_eq _)

theorem exec_ret_of_entry {s : State} (hd : 0 < s.depth.val) :
    exec .ret s = .next (completedAt (pcAfter .ret (popToPc s hd)) (popToPc s hd)) := by
  have hexec : exec .ret s = if s.params.retAdvance then endNormal (popToPc s hd) else endPcSet (popToPc s hd) := dif_pos hd
  rw [hexec, endNormal_eq, endPcSet_eq, pcAfter, popToPc_params]
  split <;> rfl

/-! ### SP and the stack -/

/-- SP is one below the depth the model stores (R35; log 8). -/
theorem depth_eq_sp_add_one (s : State) : (s.depth.val : Int) = s.sp + 1 := (Int.sub_add_cancel ..).symm

@[simp] theorem push_sp (s : State) (a : Addr) (hd : s.depth.val < 16) : (push s a hd).sp = s.sp + 1 := by
  simp only [State.sp, push_depth]
  omega

@[simp] theorem popToPc_sp (s : State) (hd : 0 < s.depth.val) : (popToPc s hd).sp = s.sp - 1 := by
  simp only [State.sp, popToPc_depth]
  omega

/-- A push writes the new top and no other entry. -/
theorem getElem_push_stack (s : State) (a : Addr) (hd : s.depth.val < 16) {k : Nat} (hk : k < 16) :
    (push s a hd).stack[k] = if (k : Int) = (push s a hd).sp then a else s.stack[k] := by
  have hdepth := depth_eq_sp_add_one s
  have htop : s.depth.val = k ↔ (k : Int) = s.sp + 1 := by omega
  simp only [push_stack, push_sp, Vector.getElem_set, htop]

/-- A pop that finds the stack as a push left it gives back the address pushed, and SP as before the push. -/
theorem popToPc_of_push {s u : State} {a : Addr} {hd : s.depth.val < 16} (hu : 0 < u.depth.val)
    (hstack : u.stack = (push s a hd).stack) (hdepth : u.depth = (push s a hd).depth) :
    (popToPc u hu).pc = a.setWidth 16 ∧ (popToPc u hu).sp = s.sp := by
  simp [hstack, hdepth, State.sp]

/-- The entry a RET pops has 12 bits, so the auto-advance does not wrap. -/
theorem toNat_pcAfter_ret {s : State} (hd : 0 < s.depth.val) :
    (pcAfter .ret (popToPc s hd)).toNat = s.stack[s.depth.val - 1].toNat + if s.params.retAdvance then 2 else 0 := by
  have hpc : (popToPc s hd).pc.toNat = s.stack[s.depth.val - 1].toNat := by
    rw [popToPc_pc]
    bv_omega
  by_cases ha : s.params.retAdvance
  · have hadvance : pcAfter .ret (popToPc s hd) = (popToPc s hd).pc + 2 := if_pos ha
    rw [hadvance, if_pos ha]
    bv_omega
  · have hstay : pcAfter .ret (popToPc s hd) = (popToPc s hd).pc := if_neg ha
    rw [hstay, if_neg ha, hpc, Nat.add_zero]

/-! ### The statements -/

/-- Settles O24: PC is the target; at 0xFFF the fetch fails at its second byte. -/
theorem jmpSetsPc : Obligations.JmpSetsPc := by
  intro s nnn
  rw [BitVec.ofNat_toNat]
  refine ⟨exec_jmpAddr nnn s, ?_⟩
  rintro rfl
  exact fetch_of_outOfRange (Nat.le_refl 0xFFF)

/-- Settles O25: a 12-bit address plus a byte fits in 16 bits. -/
theorem jpV0AddsV0 : Obligations.JpV0AddsV0 := by
  intro s nnn
  have hsum : (nnn.setWidth 16 + (s.v 0).setWidth 16 : Word).toNat = nnn.toNat + (s.v 0).toNat := by bv_omega
  exact ⟨_, exec_jpV0Addr nnn s, hsum, fun hpc => ⟨_, fetch_of_outOfRange hpc⟩⟩

/-- Settles O26: below a full stack CALL is a push and a jump, and with a full stack its fault condition holds. -/
theorem callPushesItsOwnAddress : Obligations.CallPushesItsOwnAddress := by
  intro s nnn
  have hdepth := depth_eq_sp_add_one s
  simp only [BitVec.ofNat_toNat]
  constructor
  · intro hsp
    have hd : s.depth.val < 16 := by omega
    exact ⟨_, exec_callAddr_of_room nnn hd, rfl, push_sp s _ hd, fun k hk => getElem_push_stack s _ hd hk⟩
  · intro hsp
    exact exec_of_raises ⟨by omega, rfl, rfl⟩

/-- Settles O27: with an entry RET is a pop and the auto-advance, and with none its fault condition holds. -/
theorem retPopsIntoPc : Obligations.RetPopsIntoPc := by
  intro s
  have hdepth := depth_eq_sp_add_one s
  constructor
  · intro k hk hsp
    have hd : 0 < s.depth.val := by omega
    obtain rfl : k = s.depth.val - 1 := by omega
    exact ⟨{ popToPc s hd with pc := pcAfter .ret (popToPc s hd) }, exec_ret_of_entry hd, rfl, popToPc_sp s hd,
      toNat_pcAfter_ret hd⟩
  · intro hsp
    exact exec_of_raises ⟨by omega, rfl, rfl⟩

/-- Settles O29: the RET pops what the CALL pushed, and the 12 bits of an entry hold every PC that can be fetched from. -/
theorem retAfterCallReturnsPastTheCall : Obligations.RetAfterCallReturnsPastTheCall := by
  intro s t u nnn hp hsp hcall hstack hdepth
  have hd : s.depth.val < 16 := by
    have := depth_eq_sp_add_one s
    omega
  rw [exec_callAddr_of_room nnn hd] at hcall
  cases hcall
  have hu : 0 < u.depth.val := by
    rw [hdepth]
    exact Nat.succ_pos _
  obtain ⟨hpc, hpopped⟩ := popToPc_of_push (hd := hd) hu hstack hdepth
  have hentry : (s.pc.setWidth 12).setWidth 16 = s.pc := by bv_omega
  have hreturn : pcAfter .ret (popToPc u hu) = if u.params.retAdvance then s.pc + 2 else s.pc := by
    rw [pcAfter, hpc, hentry, popToPc_params]
  exact ⟨_, exec_ret_of_entry hu, hreturn, hpopped, hstack⟩

end Sys2Proof.Machine
end

section
/-! Loads, logic and arithmetic (R140–R151): one write of Vx, or the flag and then Vx, whose operands R153 may read between. -/

namespace Sys2Proof.Machine

/-! ### The two ordered writes -/

@[simp] theorem v_setFlagThenResult_self (s : State) (x : RegIdx) (f : Bool) (g : State → Byte) :
    (setFlagThenResult s x f g).v x = g (lateRead s (setFlag s f)) :=
  (v_setFlagThenResult s x x f g).trans (if_pos rfl)

theorem v_setFlagThenResult_regF (s : State) {x : RegIdx} (f : Bool) (g : State → Byte) (hx : x ≠ regF) :
    (setFlagThenResult s x f g).v regF = flagByte f := by
  rw [v_setFlagThenResult, if_neg hx.symm, if_pos rfl]

theorem onlyXAndFlagDiffer_setFlagThenResult (s : State) (x : RegIdx) (f : Bool) (g : State → Byte) :
    OnlyXAndFlagDiffer s (setFlagThenResult s x f g) x := by
  refine ⟨rfl, fun r hx hf => ?_⟩
  rw [v_setFlagThenResult, if_neg hx, if_neg hf]

/-! ### Operands read between the two writes -/

theorem ReadsAreEarly.symm {s : State} {q r : RegIdx} (h : ReadsAreEarly s q r) : ReadsAreEarly s r q := h.imp_right And.symm

theorem ReadsAreEarly.v_lateRead {s : State} {q r : RegIdx} (h : ReadsAreEarly s q r) (f : Bool) :
    (lateRead s (setFlag s f)).v q = s.v q := by
  rcases h with hsnapshot | ⟨hq, -⟩
  · rw [lateRead_snapshot s _ hsnapshot]
  · exact v_lateRead_ne s f hq

theorem v_lateRead_regF {s : State} (f : Bool) (hlive : s.params.operandRead = .live) :
    (lateRead s (setFlag s f)).v regF = flagByte f :=
  (v_lateRead_live s f regF hlive).trans (if_pos rfl)

/-- The difference of two registers read after the no-borrow flag is written: what SUB and SUBN, which swap the operands, leave
in Vx (R147, R149, R153). -/
theorem toNat_sub_lateRead (s : State) (p q : RegIdx) :
    let r := lateRead s (setFlag s (noBorrow s.params (s.v p) (s.v q)))
    let a := (s.v p).toNat
    let b := (s.v q).toNat
    let f := borrowFlag s.params a b
    (ReadsAreEarly s p q → (r.v p - r.v q).toNat = (a + 256 - b) % 256) ∧
    (s.params.operandRead = .live → p = regF → q ≠ regF → (r.v p - r.v q).toNat = (f + 256 - b) % 256) ∧
    (s.params.operandRead = .live → p ≠ regF → q = regF → (r.v p - r.v q).toNat = (a + 256 - f) % 256) ∧
    (p = regF → q = regF → (r.v p - r.v q).toNat = 0) := by
  refine ⟨fun h => ?_, fun hlive hp hq => ?_, fun hlive hp hq => ?_, fun hp hq => ?_⟩
  · rw [toNat_byte_sub, h.v_lateRead, h.symm.v_lateRead]
  · subst hp
    rw [toNat_byte_sub, v_lateRead_regF _ hlive, v_lateRead_ne s _ hq, flagByte_noBorrow]
  · subst hq
    rw [toNat_byte_sub, v_lateRead_regF _ hlive, v_lateRead_ne s _ hp, flagByte_noBorrow]
  · rw [hp, hq, BitVec.sub_self, BitVec.toNat_zero]

theorem shiftSource_eq (s : State) (x y : RegIdx) : shiftSource s x y = if s.params.shift = .legacy then y else x := by
  unfold shiftSource
  split <;> simp [*]

theorem toNat_byte_shiftRight_one (a : Byte) : (a >>> 1).toNat = a.toNat / 2 := by
  rw [BitVec.toNat_ushiftRight, Nat.shiftRight_one]

theorem toNat_byte_shiftLeft_one (a : Byte) : (a <<< 1).toNat = 2 * a.toNat % 256 := by
  rw [BitVec.toNat_shiftLeft, Nat.shiftLeft_eq, Nat.mul_comm]

/-! ### The statements -/

/-- Settles O18: the sum is the old registers' in both modes, and the flag is written before it. -/
theorem addRegWritesSumAndCarry : Obligations.AddRegWritesSumAndCarry := by
  intro s x y
  refine ⟨_, endNormal_eq _, onlyXAndFlagDiffer_setFlagThenResult s x _ _, ?_, fun hx => ?_⟩
  · rw [v_setFlagThenResult_self, BitVec.toNat_add]
  · rw [v_setFlagThenResult_regF s _ _ hx, flagByte_carry]

/-- Settles O19: the flag, then Vx − Vy as the registers stand. -/
theorem subWritesDifferenceAndNoBorrow : Obligations.SubWritesDifferenceAndNoBorrow := by
  intro s x y
  refine ⟨_, endNormal_eq _, onlyXAndFlagDiffer_setFlagThenResult s x _ _, fun hx => ?_, ?_⟩
  · rw [v_setFlagThenResult_regF s _ _ hx, flagByte_noBorrow]
  · rw [v_setFlagThenResult_self]
    exact toNat_sub_lateRead s x y

/-- Settles O20: SUB's argument with the operands swapped, and Vx still the destination. -/
theorem subnWritesDifferenceAndNoBorrow : Obligations.SubnWritesDifferenceAndNoBorrow := by
  intro s x y
  refine ⟨_, endNormal_eq _, onlyXAndFlagDiffer_setFlagThenResult s x _ _, fun hx => ?_, ?_⟩
  · rw [v_setFlagThenResult_regF s _ _ hx, flagByte_noBorrow]
  · obtain ⟨hearly, hminuend, hsubtrahend, hboth⟩ := toNat_sub_lateRead s y x
    rw [v_setFlagThenResult_self]
    exact ⟨fun h => hearly h.symm, fun hlive hx hy => hsubtrahend hlive hy hx, fun hlive hx hy => hminuend hlive hy hx,
      fun hx hy => hboth hy hx⟩

/-- Settles O21: a source that is VF holds the flag when it is read live, and a shifted flag is 0. -/
theorem shrHalvesAndKeepsBitZero : Obligations.ShrHalvesAndKeepsBitZero := by
  intro s x y
  rw [← shiftSource_eq]
  refine ⟨_, endNormal_eq _, onlyXAndFlagDiffer_setFlagThenResult s x _ _, fun hx => ?_, fun h => ?_, fun hlive hq => ?_⟩
  · rw [v_setFlagThenResult_regF s _ _ hx, flagByte_bit0]
  · rw [v_setFlagThenResult_self, h.v_lateRead, toNat_byte_shiftRight_one]
  · rw [v_setFlagThenResult_self, hq, v_lateRead_regF _ hlive]
    exact congrArg BitVec.toNat (flagByte_shiftRight _)

/-- Settles O22: as SHR, but a flag shifted left is twice the flag. -/
theorem shlDoublesAndKeepsBitSeven : Obligations.ShlDoublesAndKeepsBitSeven := by
  intro s x y
  rw [← shiftSource_eq]
  refine ⟨_, endNormal_eq _, onlyXAndFlagDiffer_setFlagThenResult s x _ _, fun hx => ?_, fun h => ?_, fun hlive hq => ?_⟩
  · rw [v_setFlagThenResult_regF s _ _ hx, flagByte_bit7]
  · rw [v_setFlagThenResult_self, h.v_lateRead, toNat_byte_shiftLeft_one]
  · rw [v_setFlagThenResult_self, hq, v_lateRead_regF _ hlive, flagByte_shiftLeft, flagByte_bit7]

/-- Settles O17: each handler is one write of Vx and a normal ending; the model's sum of bytes is the truncated sum. -/
theorem loadsAndLogicWriteVxAlone : Obligations.LoadsAndLogicWriteVxAlone := by
  intro s x y kk
  rw [← BitVec.add_def]
  exact ⟨endNormal_eq _, endNormal_eq _, endNormal_eq _, endNormal_eq _, endNormal_eq _, endNormal_eq _⟩

/-- Settles O23: one draw, whose byte is masked and whose next state is kept; the two writes are of different fields. -/
theorem rndMasksOneDrawnByte : Obligations.RndMasksOneDrawnByte :=
  fun _ _ _ => endNormal_eq _

end Sys2Proof.Machine
end

section
/-! I and memory through it (R170–R176): where each load leaves I, and the run of bytes or registers a transfer moves. -/

namespace Sys2Proof.Machine

/-! ### I -/

/-- I plus a byte, truncated to 16 bits (R171). -/
theorem ofNat_add_byte (i : Word) (b : Byte) : BitVec.ofNat 16 (i.toNat + b.toNat) = i + b.setWidth 16 := by
  rw [BitVec.ofNat_add, BitVec.ofNat_toNat, BitVec.ofNat_toNat, BitVec.setWidth_eq]

theorem glyphAddress_eq (b : Byte) : glyphAddress b = BitVec.ofNat 16 (5 * b.toNat) := by
  unfold glyphAddress
  bv_omega

/-- Settles O30: both handlers are one write of I and a normal ending, and the model's sum of words is the truncated sum. -/
theorem indexLoadAndAdd : Obligations.IndexLoadAndAdd := by
  intro s x nnn
  rw [BitVec.ofNat_toNat, ofNat_add_byte]
  exact ⟨endNormal_eq _, endNormal_eq _⟩

/-- Settles O31: up to 0x0F the handler writes I and ends normally, and above it its fault condition holds. -/
theorem fontGlyphAddressOrFault : Obligations.FontGlyphAddressOrFault := by
  intro s x
  rw [BitVec.ofNat_toNat, ← glyphAddress_eq]
  constructor
  · intro hdigit
    exact (if_neg (Nat.not_lt.2 hdigit)).trans (endNormal_eq _)
  · intro hv
    exact exec_of_raises ⟨hv, rfl, toNat_setWidth_byte _⟩

/-! ### The answer of each transfer in range (R61) -/

theorem exec_ldBVx_of_inRange {s : State} (x : RegIdx) (h : s.idx.toNat + 3 ≤ 0x1000) :
    exec (.ldBVx x) s = .next (completed (s.storeBytes s.idx.toNat (bcdDigits (s.v x)))) := by
  rw [exec, execLdBVx, withRangeCheck_of_inRange _ (.inr h), endNormal_eq]

theorem exec_ldIVx_of_inRange {s : State} {x : RegIdx} (h : movedCount s x = 0 ∨ s.idx.toNat + movedCount s x ≤ 0x1000) :
    exec (.ldIVx x) s = .next (completed (s.storeBytes s.idx.toNat (firstRegs s (movedCount s x)))) := by
  rw [movedCount_eq_transferCount] at h ⊢
  rw [exec, execLdIVx, withRangeCheck_of_inRange _ h, endNormal_eq]

theorem exec_ldVxI_of_inRange {s : State} {x : RegIdx} (h : movedCount s x = 0 ∨ s.idx.toNat + movedCount s x ≤ 0x1000) :
    exec (.ldVxI x) s = .next (completed (loadRegs s (movedCount s x))) := by
  rw [movedCount_eq_transferCount] at h ⊢
  rw [exec, execLdVxI, withRangeCheck_of_inRange _ h, endNormal_eq]

/-! ### Runs of registers (R174) -/

theorem movedCount_congr {s t : State} (h : t.params = s.params) (x : RegIdx) : movedCount t x = movedCount s x := by
  rw [movedCount, movedCount, h]

theorem length_firstRegs_movedCount (s : State) (x : RegIdx) : (firstRegs s (movedCount s x)).length = movedCount s x := by
  rw [movedCount_eq_transferCount]
  exact length_firstRegs s (transferCount_le s x)

/-- The byte at its place in the run that a store of registers writes is the register. -/
theorem readByte_storeBytes_firstRegs (s : State) (a : Nat) {x k : RegIdx} (h : k.val < movedCount s x) :
    (s.storeBytes a (firstRegs s (movedCount s x))).readByte (a + k.val) = s.v k := by
  have hk : k.val < (firstRegs s (movedCount s x)).length := by rwa [length_firstRegs_movedCount]
  exact (readByte_storeBytes s a k.val _ hk).trans (getElem_firstRegs s _ k hk)

/-- A store of registers that returns Ok passed its range check: it neither raised nor waits. -/
theorem inRange_of_exec_ldIVx_ok {s t : State} {x : RegIdx} (h : exec (.ldIVx x) s = .next t) (hok : t.result = some .ok) :
    movedCount s x = 0 ∨ s.idx.toNat + movedCount s x ≤ 0x1000 := by
  obtain ⟨kind, info, -, rfl⟩ | ⟨y, hy, -, -⟩ | ⟨u, ⟨hrange, -⟩, -⟩ := exec_cases h
  · cases hok
  · cases hy
  · rwa [movedCount_eq_transferCount]

/-! ### The statements -/

/-- Settles O32: the digits are the run stored; each is at most 9, so none is cut to 8 bits. -/
theorem bcdStoresThreeDigits : Obligations.BcdStoresThreeDigits := by
  intro s x hrange
  have hv := (s.v x).isLt
  have hdigit (k : Nat) (hk : k < (bcdDigits (s.v x)).length) :
      ((s.storeBytes s.idx.toNat (bcdDigits (s.v x))).readByte (s.idx.toNat + k)).toNat = (bcdDigits (s.v x))[k].toNat :=
    congrArg BitVec.toNat (readByte_storeBytes s s.idx.toNat k _ hk)
  have hbyte {n : Nat} (hn : n < 256) : (BitVec.ofNat 8 n).toNat = n := Nat.mod_eq_of_lt hn
  exact ⟨_, exec_ldBVx_of_inRange x (by omega), rfl,
    (hdigit 0 (by simp)).trans (hbyte (by omega)),
    (hdigit 1 (by simp)).trans (hbyte (by omega)),
    (hdigit 2 (by simp)).trans (hbyte (by omega)),
    fun a ha => readByte_storeBytes_of_outside s _ a _ ha⟩

/-- Settles O33: the store puts each register at its place in its run, and leaves the bytes outside it alone. -/
theorem storeRegistersWritesFromI : Obligations.StoreRegistersWritesFromI := by
  intro s x hrange
  refine ⟨_, exec_ldIVx_of_inRange hrange, rfl, fun k hk => readByte_storeBytes_firstRegs s _ hk, fun a ha => ?_⟩
  exact readByte_storeBytes_of_outside s _ a _ (by rwa [length_firstRegs_movedCount])

/-- Settles O34: a load in range is the model's load of the registers moved, whose every register is known. -/
theorem loadRegistersReadsFromI : Obligations.LoadRegistersReadsFromI :=
  fun s _ hrange => ⟨_, exec_ldVxI_of_inRange hrange, rfl, v_loadRegs s _⟩

/-- Settles O35: with the same I and parameters the load moves the run of the store, which was in range. -/
theorem storeThenLoadGivesRegistersBack : Obligations.StoreThenLoadGivesRegistersBack := by
  intro s t u x hstore hok hidx hparams hbytes
  have hrange := inRange_of_exec_ldIVx_ok hstore hok
  have hcount : movedCount u x = movedCount s x := movedCount_congr hparams x
  rw [exec_ldIVx_of_inRange hrange] at hstore
  cases hstore
  refine ⟨_, exec_ldVxI_of_inRange (by rwa [hcount, hidx]), rfl, fun k hk => ?_⟩
  calc (loadRegs u (movedCount u x)).v k
      = u.readByte (s.idx.toNat + k.val) := by rw [v_loadRegs, if_pos (by rwa [hcount]), hidx]
    _ = (s.storeBytes s.idx.toNat (firstRegs s (movedCount s x))).readByte (s.idx.toNat + k.val) := hbytes k hk
    _ = s.v k := readByte_storeBytes_firstRegs s _ hk

end Sys2Proof.Machine
end

section
/-! CLS (R190), and the loop of DRW (R191): the states it goes through show the canvases of `Canvas.sprite`, pixel by pixel. -/

namespace Sys2Proof.Machine

/-- Settles O38: the handler fills both maps and ends normally. -/
theorem clsClearsAndMarksEveryCell : Obligations.ClsClearsAndMarksEveryCell :=
  fun _ => ⟨_, endNormal_eq _, rfl, fun px py => ⟨pixel_all false px py, pixel_all true px py⟩⟩

/-- Drawing from `s` has reached `t`: VF, FB and DIRTY of `t` are the canvas `c`, all else is as in `s`. -/
structure Shows (s t : State) (c : Canvas) : Prop where
  frame : OnlyFlagAndScreenDiffer s t
  flag  : t.v regF = flagByte c.hit
  on    : t.fb.pixel = c.on
  dirty : t.dirty.pixel = c.dirty

/-- Before the first pixel: VF is cleared, the screen is untouched (R191). -/
theorem shows_setFlag_false (s : State) : Shows s (setFlag s false) ⟨false, s.fb.pixel, s.dirty.pixel⟩ :=
  ⟨setFlag_frame s false, v_setFlag s false regF, rfl, rfl⟩

theorem Shows.togglePixel {s t : State} {c : Canvas} (h : Shows s t c) (px : Fin 64) (py : Fin 32) :
    Shows s (togglePixel t px py) (c.toggle px py) where
  frame := h.frame.trans (togglePixel_frame t px py)
  flag := by
    rw [v_togglePixel, h.flag, h.on]
    cases hon : c.on px py <;> simp [Canvas.toggle, hon, flagByte]
  on := by
    funext qx qy
    rw [togglePixel_fb, pixel_setPixel, h.on]
    by_cases hq : qx = px ∧ qy = py
    · obtain ⟨rfl, rfl⟩ := hq
      simp [Canvas.toggle]
    · simp [Canvas.toggle, hq]
  dirty := by
    funext qx qy
    rw [togglePixel_dirty, pixel_setPixel, h.dirty]
    by_cases hq : qx = px ∧ qy = py <;> simp [Canvas.toggle, hq]

/-- A coordinate read late is the canvas's: VF shows the collisions so far under `live` alone (R196). -/
theorem Shows.coordinate_eq {s t : State} {c : Canvas} (h : Shows s t c) (r : RegIdx) :
    ((lateRead s t).v r).toNat = c.coordinate s r := by
  cases hread : s.params.operandRead with
  | live =>
    by_cases hr : r = regF
    · subst hr
      cases hhit : c.hit <;> simp [lateRead, Canvas.coordinate, hread, h.flag, hhit, flagByte]
    · simp [lateRead, Canvas.coordinate, hread, hr, h.frame.2 r hr]
  | snapshot => simp [lateRead, Canvas.coordinate, hread]

/-- Pixel j of row i is pixel 8·i + j of the sprite. -/
theorem Shows.drawPixel {s t : State} {c : Canvas} (h : Shows s t c) (x y : RegIdx) (i : Nat) {j : Nat} (hj : j < 8) :
    Shows s (drawPixel s x y (s.readByte (s.idx.toNat + i)) i t j) (Canvas.draw s x y c (8 * i + j)) := by
  have hrow : (8 * i + j) / 8 = i := by omega
  have hcol : (8 * i + j) % 8 = j := by omega
  simp only [Machine.drawPixel, spriteBit, spriteColumn, spriteLine, Canvas.draw, hrow, hcol, h.coordinate_eq]
  split
  · exact h.togglePixel _ _
  · exact h

/-- A row draws its eight pixels: the byte it reads is the one of before, for a draw writes no memory and not I. -/
theorem Shows.drawRow {s t : State} {c : Canvas} (h : Shows s t c) (x y : RegIdx) (i : Nat) :
    Shows s (drawRow s x y t i) ((List.range 8).foldl (fun c j => Canvas.draw s x y c (8 * i + j)) c) := by
  have hbyte : t.readByte (t.idx.toNat + i) = s.readByte (s.idx.toNat + i) := by rw [h.frame.1]; rfl
  rw [Machine.drawRow, hbyte]
  exact List.foldl_rel h fun j hj _ _ h => h.drawPixel x y i (List.mem_range.1 hj)

/-- A loop over 8·n pixels is a loop over n rows of eight. -/
theorem foldl_range_eight_mul {α : Type} (f : α → Nat → α) (a : α) (n : Nat) :
    (List.range (8 * n)).foldl f a = (List.range n).foldl (fun a i => (List.range 8).foldl (fun a j => f a (8 * i + j)) a) a := by
  induction n with
  | zero => rfl
  | succ n ih =>
    rw [Nat.mul_succ, List.range_add, List.foldl_append, ih, List.foldl_map, List.range_succ (n := n),
      List.foldl_append]
    rfl

/-- The whole draw shows the canvas of R191's loop. -/
theorem shows_drawSprite (s : State) (x y : RegIdx) (n : Nat) : Shows s (drawSprite x y n s) (Canvas.sprite s x y n) := by
  rw [drawSprite, Canvas.sprite, foldl_range_eight_mul]
  exact List.foldl_rel (shows_setFlag_false s) fun i _ _ _ h => h.drawRow x y i

theorem exec_drw_of_inRange {s : State} {n : Nat} (x y : RegIdx) (h : n = 0 ∨ s.idx.toNat + n ≤ 0x1000) :
    exec (.drw x y n) s = .next (completed (drawSprite x y n s)) := by
  rw [exec, execDrw, withRangeCheck_of_inRange _ h, endNormal_eq]

/-- Settles O39: in range the draw runs, and it shows the canvas of the loop. -/
theorem drwRunsTheSpriteLoop : Obligations.DrwRunsTheSpriteLoop := by
  intro s x y n hrange
  have h := shows_drawSprite s x y n
  exact ⟨_, exec_drw_of_inRange x y hrange, h.frame, h.flag, h.on, h.dirty⟩

end Sys2Proof.Machine
end

section
/-! A sprite whose coordinates are read early (R192–R195): its pixels land on different cells, so each covered cell flips once. -/

namespace Sys2Proof.Machine

/-! ### The cells of a sprite -/

/-- Pixel k of the sprite at I, drawn at (vx, vy), is set and lands on (px, py) (R192, R193). -/
def LandsOn (s : State) (vx vy k : Nat) (px : Fin 64) (py : Fin 32) : Prop :=
  (s.readByte (s.idx.toNat + k / 8)).getLsbD (7 - k % 8) = true ∧ (vx + k % 8) % 64 = px.val ∧ (vy + k / 8) % 32 = py.val

/-- One of the first `m` pixels of the sprite lands on (px, py). -/
def CoveredByFirst (s : State) (vx vy m : Nat) (px : Fin 64) (py : Fin 32) : Prop := ∃ k < m, LandsOn s vx vy k px py

theorem coveredByFirst_eight_mul {s : State} {vx vy n : Nat} {px : Fin 64} {py : Fin 32} :
    CoveredByFirst s vx vy (8 * n) px py ↔ SpriteCovers s vx vy n px py := by
  constructor
  · rintro ⟨k, hk, hlands⟩
    exact ⟨k / 8, k % 8, by omega, by omega, hlands⟩
  · rintro ⟨i, j, hi, hj, hlands⟩
    have hrow : (8 * i + j) / 8 = i := by omega
    have hcol : (8 * i + j) % 8 = j := by omega
    exact ⟨8 * i + j, by omega, by rwa [LandsOn, hrow, hcol]⟩

theorem coveredByFirst_succ {s : State} {vx vy m : Nat} {px : Fin 64} {py : Fin 32} :
    CoveredByFirst s vx vy (m + 1) px py ↔ CoveredByFirst s vx vy m px py ∨ LandsOn s vx vy m px py := by
  simp only [CoveredByFirst, Nat.lt_succ_iff_lt_or_eq, or_and_right, exists_or, exists_eq_left]

/-- Up to 32 rows, two pixels that land on one cell are the same pixel: neither coordinate wraps onto itself. -/
theorem LandsOn.pixel_eq {s : State} {vx vy k l : Nat} {px : Fin 64} {py : Fin 32} (hk : LandsOn s vx vy k px py)
    (hl : LandsOn s vx vy l px py) (hk' : k < 256) (hl' : l < 256) : k = l := by
  obtain ⟨-, hkx, hky⟩ := hk
  obtain ⟨-, hlx, hly⟩ := hl
  omega

/-! ### Canvases with the covered cells flipped -/

/-- `c` is the screen of `s` with the cells in `P` flipped and marked dirty; it has a hit iff one of them was on (R191, R194). -/
structure Canvas.Flips (s : State) (P : Fin 64 → Fin 32 → Prop) (c : Canvas) : Prop where
  inside  : ∀ px py, P px py → c.on px py = !s.fb.pixel px py ∧ c.dirty px py = true
  outside : ∀ px py, ¬ P px py → c.on px py = s.fb.pixel px py ∧ c.dirty px py = s.dirty.pixel px py
  hit     : c.hit = true ↔ ∃ px py, P px py ∧ s.fb.pixel px py = true

/-- Toggling a cell not flipped so far flips one cell more. -/
theorem Canvas.Flips.toggle {s : State} {P Q : Fin 64 → Fin 32 → Prop} {c : Canvas} {px : Fin 64} {py : Fin 32}
    (h : Canvas.Flips s P c) (hnew : ¬ P px py) (hQ : ∀ qx qy, Q qx qy ↔ P qx qy ∨ (qx = px ∧ qy = py)) :
    Canvas.Flips s Q (c.toggle px py) where
  inside qx qy hq := by
    by_cases hcell : qx = px ∧ qy = py
    · obtain ⟨rfl, rfl⟩ := hcell
      simp [Canvas.toggle, (h.outside qx qy hnew).1]
    · obtain ⟨hon, hdirty⟩ := h.inside qx qy (((hQ qx qy).1 hq).resolve_right hcell)
      simp [Canvas.toggle, hcell, hon, hdirty]
  outside qx qy hq := by
    obtain ⟨hP, hcell⟩ := not_or.1 (mt (hQ qx qy).2 hq)
    obtain ⟨hon, hdirty⟩ := h.outside qx qy hP
    simp [Canvas.toggle, hcell, hon, hdirty]
  hit := by
    have hpixel : c.on px py = s.fb.pixel px py := (h.outside px py hnew).1
    simp only [Canvas.toggle, Bool.or_eq_true, h.hit, hpixel, hQ, or_and_right, exists_or, and_assoc,
      exists_and_left, exists_eq_left]

theorem ReadsAreEarly.coordinate_eq {s : State} {q r : RegIdx} (h : ReadsAreEarly s q r) (c : Canvas) :
    c.coordinate s q = (s.v q).toNat := by
  refine if_neg ?_
  rintro ⟨hlive, hq⟩
  obtain hsnapshot | ⟨hne, -⟩ := h
  · rw [hlive] at hsnapshot
    cases hsnapshot
  · exact hne hq

/-- Pixel m flips the cell it lands on, which no pixel before it did. -/
theorem Canvas.Flips.draw {s : State} {x y : RegIdx} {c : Canvas} {m : Nat} (hearly : ReadsAreEarly s x y) (hm : m < 256)
    (h : Canvas.Flips s (CoveredByFirst s (s.v x).toNat (s.v y).toNat m) c) :
    Canvas.Flips s (CoveredByFirst s (s.v x).toNat (s.v y).toNat (m + 1)) (Canvas.draw s x y c m) := by
  simp only [Canvas.draw, hearly.coordinate_eq, hearly.symm.coordinate_eq]
  split
  · next hbit =>
    refine h.toggle ?_ fun qx qy => ?_
    · rintro ⟨k, hk, hlands⟩
      exact hk.ne (hlands.pixel_eq ⟨hbit, rfl, rfl⟩ (by omega) hm)
    · simp [coveredByFirst_succ, LandsOn, hbit, Fin.ext_iff, eq_comm]
  · next hbit =>
    have hsame : CoveredByFirst s (s.v x).toNat (s.v y).toNat (m + 1) = CoveredByFirst s (s.v x).toNat (s.v y).toNat m := by
      funext qx qy
      simp [coveredByFirst_succ, LandsOn, hbit]
    rwa [hsame]

/-- The canvas after the first `m` pixels. -/
theorem flips_foldl_draw {s : State} {x y : RegIdx} (hearly : ReadsAreEarly s x y) {m : Nat} (hm : m ≤ 256) :
    Canvas.Flips s (CoveredByFirst s (s.v x).toNat (s.v y).toNat m)
      ((List.range m).foldl (Canvas.draw s x y) ⟨false, s.fb.pixel, s.dirty.pixel⟩) := by
  induction m with
  | zero =>
    have hnone (px : Fin 64) (py : Fin 32) : ¬ CoveredByFirst s (s.v x).toNat (s.v y).toNat 0 px py := by
      simp [CoveredByFirst]
    exact ⟨fun px py h => (hnone px py h).elim, fun _ _ _ => ⟨rfl, rfl⟩, by simp [hnone]⟩
  | succ m ih =>
    rw [List.range_succ, List.foldl_append]
    exact (ih (by omega)).draw hearly hm

theorem flips_sprite {s : State} {x y : RegIdx} {n : Nat} (hearly : ReadsAreEarly s x y) (hn : n ≤ 32) :
    Canvas.Flips s (SpriteCovers s (s.v x).toNat (s.v y).toNat n) (Canvas.sprite s x y n) := by
  have hcells : CoveredByFirst s (s.v x).toNat (s.v y).toNat (8 * n) = SpriteCovers s (s.v x).toNat (s.v y).toNat n := by
    funext px py
    exact propext coveredByFirst_eight_mul
  rw [← hcells]
  exact flips_foldl_draw hearly (by omega)

/-- Settles O40: the draw shows the loop's canvas, which is the screen with the covered cells flipped. -/
theorem drwFlipsExactlyTheCoveredCells : Obligations.DrwFlipsExactlyTheCoveredCells := by
  intro s x y n hn hrange hearly
  have h := shows_drawSprite s x y n
  have hflips := flips_sprite hearly (show n ≤ 32 by omega)
  refine ⟨_, exec_drw_of_inRange x y hrange, h.frame, ?_, ?_, fun hon => ?_, fun hoff => ?_⟩
  · rw [h.on, h.dirty]
    exact hflips.inside
  · rw [h.on, h.dirty]
    exact hflips.outside
  · rw [h.flag, hflips.hit.2 hon]
    rfl
  · have hmiss : (Canvas.sprite s x y n).hit = false := by
      rw [← Bool.not_eq_true, hflips.hit]
      rintro ⟨px, py, hcovers, hpixel⟩
      exact Bool.false_ne_true ((hoff px py hcovers).symm.trans hpixel)
    rw [h.flag, hmiss]
    rfl

/-! ### Drawing twice -/

/-- The cells a sprite covers depend on memory, the font and I alone. -/
theorem spriteCovers_congr {s t : State} (hmem : t.mem = s.mem) (hparams : t.params = s.params) (hidx : t.idx = s.idx) :
    SpriteCovers t = SpriteCovers s := by
  funext vx vy n px py
  simp only [SpriteCovers, readByte_congr hmem hparams, hidx]

/-- Flipping the same cells once more gives the screen back; it has a hit iff a cell was off at first (R197, log 23). -/
theorem Canvas.Flips.again {s t : State} {P : Fin 64 → Fin 32 → Prop} {c d : Canvas} (hc : Canvas.Flips s P c)
    (hd : Canvas.Flips t P d) (hon : t.fb.pixel = c.on) (hdirty : t.dirty.pixel = c.dirty) :
    d.on = s.fb.pixel ∧ d.dirty = c.dirty ∧ (d.hit = true ↔ ∃ px py, P px py ∧ s.fb.pixel px py = false) := by
  have hcell (px : Fin 64) (py : Fin 32) : d.on px py = s.fb.pixel px py ∧ d.dirty px py = c.dirty px py := by
    by_cases hP : P px py
    · rw [(hd.inside px py hP).1, (hd.inside px py hP).2, hon, (hc.inside px py hP).1, (hc.inside px py hP).2, Bool.not_not]
      exact ⟨rfl, rfl⟩
    · rw [(hd.outside px py hP).1, (hd.outside px py hP).2, hon, (hc.outside px py hP).1, hdirty]
      exact ⟨rfl, rfl⟩
  refine ⟨funext₂ fun px py => (hcell px py).1, funext₂ fun px py => (hcell px py).2, hd.hit.trans ?_⟩
  refine exists₂_congr fun px py => and_congr_right fun hP => ?_
  rw [hon, (hc.inside px py hP).1, Bool.not_eq_true']

theorem flagByte_eq_one {f : Bool} : flagByte f = 1 ↔ f = true := by revert f; decide

theorem flagByte_eq_zero_or_one (f : Bool) : flagByte f = 0 ∨ flagByte f = 1 := by revert f; decide

/-- A second draw of the sprite reads the operands and the bytes of the first, so it flips the same cells. -/
theorem Shows.flips_sprite {s t : State} {c : Canvas} {x y : RegIdx} {n : Nat} (h : Shows s t c) (hx : x ≠ regF) (hy : y ≠ regF)
    (hn : n ≤ 32) :
    Canvas.Flips (completed t) (SpriteCovers s (s.v x).toNat (s.v y).toNat n) (Canvas.sprite (completed t) x y n) := by
  obtain ⟨hframe, hregs⟩ := h.frame
  have hcovers : SpriteCovers (completed t) = SpriteCovers s := by
    rw [hframe]
    exact spriteCovers_congr rfl rfl rfl
  have hflips := Machine.flips_sprite (s := completed t) (.inr ⟨hx, hy⟩) hn
  have hvx : (completed t).v x = s.v x := hregs x hx
  have hvy : (completed t).v y = s.v y := hregs y hy
  rwa [hcovers, hvx, hvy] at hflips

/-- Settles O41: the first draw flips the covered cells, and the second flips them once more. -/
theorem drwTwiceRestoresTheScreen : Obligations.DrwTwiceRestoresTheScreen := by
  intro s t x y n hn hrange hx hy hexec
  have hfirst := shows_drawSprite s x y n
  rw [exec_drw_of_inRange x y hrange] at hexec
  cases hexec
  have hsecond := shows_drawSprite (completed (drawSprite x y n s)) x y n
  have hflips := flips_sprite (s := s) (.inr ⟨hx, hy⟩) (show n ≤ 32 by omega)
  obtain ⟨hon, hdirty, hhit⟩ := hflips.again (hfirst.flips_sprite hx hy (by omega)) hfirst.on hfirst.dirty
  have hidx : (completed (drawSprite x y n s)).idx = s.idx := drawSprite_idx x y n s
  refine ⟨_, exec_drw_of_inRange x y (by rwa [hidx]), Bitmap.ext_pixel fun px py => ?_, Bitmap.ext_pixel fun px py => ?_, ?_, ?_⟩
  · exact congrFun₂ (hsecond.on.trans hon) px py
  · exact congrFun₂ (hsecond.dirty.trans (hdirty.trans hfirst.dirty.symm)) px py
  · exact (iff_of_eq (congrArg (· = 1) hsecond.flag)).trans (flagByte_eq_one.trans hhit)
  · exact hsecond.flag ▸ flagByte_eq_zero_or_one _

end Sys2Proof.Machine
end

section
/-! Keys and timers (R211–R217): the skips on a key's level, the load and the wait that take the lowest key down, and the timer
moves, which end normally. -/

namespace Sys2Proof.Machine

/-! ### The answer of each key instruction -/

theorem exec_skp_of_key {s : State} {x k : RegIdx} (hk : (s.v x).toNat = k.val) :
    exec (.skp x) s = .next (completedAt (s.pc + if keyDown s k then 4 else 2) s) := by
  rw [exec, execSkp, namedKey_eq_some.2 hk]
  exact endNormal_skipIf _ s

theorem exec_sknp_of_key {s : State} {x k : RegIdx} (hk : (s.v x).toNat = k.val) :
    exec (.sknp x) s = .next (completedAt (s.pc + if keyDown s k then 2 else 4) s) := by
  rw [exec, execSknp, namedKey_eq_some.2 hk]
  simp only [endNormal_skipIf, Bool.not_eq_true', ← Bool.not_eq_true, ite_not]

theorem exec_ldVxK_of_lowest {s : State} {k : RegIdx} (x : RegIdx) (hk : IsLowestKey s.keys k) :
    exec (.ldVxK x) s = .next (completed (s.setV x (keyByte k))) := by
  rw [exec, execLdVxK, lowestKey_eq_some.2 hk]
  exact endNormal_eq _

theorem exec_ldVxK_of_noKey {s : State} (x : RegIdx) (hkeys : s.keys = 0) :
    exec (.ldVxK x) s = .next { s with waitingForKey := some x, result := some .ok } := by
  rw [exec, execLdVxK, lowestKey_eq_none.2 hkeys]
  exact endWait_eq _

/-! ### A Tick of the key-wait -/

theorem tick_of_waiting {s : State} {r : RegIdx} (hh : s.halted = false) (hw : s.waitingForKey = some r) :
    tick s = keyWaitTick r s := by
  simp [tick, hh, hw]

theorem keyWaitTick_of_lowest {s : State} {k : RegIdx} (r : RegIdx) (hk : IsLowestKey s.keys k) :
    keyWaitTick r s = .next (completed { s.setV r (keyByte k) with waitingForKey := none }) := by
  rw [keyWaitTick, lowestKey_eq_some.2 hk]
  exact endNormal_eq _

theorem keyWaitTick_of_noKey {s : State} (r : RegIdx) (hkeys : s.keys = 0) :
    keyWaitTick r s = .next { s with result := some .ok } := by
  rw [keyWaitTick, lowestKey_eq_none.2 hkeys]
  exact endWait_eq s

/-! ### The statements -/

/-- Settles O10: the step is a Tick of the key-wait, at the keys the Tick starts with. -/
theorem keyWaitTickCompletesOrChangesNothing : Obligations.KeyWaitTickCompletesOrChangesNothing := by
  intro s t r hstart hh hw
  rw [← hstart.halted_eq] at hh
  rw [← hstart.waitingForKey_eq] at hw
  rw [step_of_tickStarts hstart, tick_of_waiting hh hw]
  exact ⟨fun _ hk => keyWaitTick_of_lowest r hk, keyWaitTick_of_noKey r⟩

/-- Settles O43: the poll of the executing tick finds the lowest key down, or none. -/
theorem keyLoadTakesLowestOrWaits : Obligations.KeyLoadTakesLowestOrWaits :=
  fun _ x => ⟨fun _ hk => exec_ldVxK_of_lowest x hk, exec_ldVxK_of_noKey x⟩

/-- Settles O42: at most 0x0F Vx names a key, whose level decides the skip; above it the fault condition of both holds. -/
theorem keySkipsOrInvalidKey : Obligations.KeySkipsOrInvalidKey := by
  intro s x
  constructor
  · intro hv
    obtain ⟨k, hk⟩ : ∃ k : RegIdx, (s.v x).toNat = k.val := ⟨⟨(s.v x).toNat, by omega⟩, rfl⟩
    rw [hk]
    exact ⟨exec_skp_of_key hk, exec_sknp_of_key hk⟩
  · intro hv
    have hinfo : (BitVec.ofNat 16 (s.v x).toNat).toNat = (s.v x).toNat := by
      rw [BitVec.ofNat_toNat, toNat_setWidth_byte]
    exact ⟨exec_of_raises ⟨hv, rfl, hinfo⟩, exec_of_raises ⟨hv, rfl, hinfo⟩⟩

/-- Settles O44: each handler writes its register or timer and then ends normally, with the decay after the write. -/
theorem timerInstructionsReadAndWriteTimers : Obligations.TimerInstructionsReadAndWriteTimers :=
  fun _ _ => ⟨endNormal_eq _, endNormal_eq _, endNormal_eq _⟩

end Sys2Proof.Machine
end

section
/-! The key levels reach no other instruction (R210): every operation commutes with a change of KEYS. -/

namespace Sys2Proof.Machine

/-! ### Two drawings that show one canvas -/

theorem regs_eq_of_v {s t : State} (h : ∀ r, s.v r = t.v r) : s.regs = t.regs :=
  Vector.ext fun r hr => h ⟨r, hr⟩

/-- A canvas fixes VF, FB and DIRTY of the state that shows it, and the frame the rest. -/
theorem Shows.unique {s t u : State} {c : Canvas} (ht : Shows s t c) (hu : Shows s u c) : t = u := by
  have hregs : t.regs = u.regs := by
    refine regs_eq_of_v fun r => ?_
    by_cases hr : r = regF
    · rw [hr, ht.flag, hu.flag]
    · rw [ht.frame.2 r hr, hu.frame.2 r hr]
  have hfb : t.fb = u.fb := Bitmap.ext_pixel fun px py => by rw [ht.on, hu.on]
  have hdirty : t.dirty = u.dirty := Bitmap.ext_pixel fun px py => by rw [ht.dirty, hu.dirty]
  rw [ht.frame.1, hu.frame.1, hregs, hfb, hdirty]

/-! ### States at other key levels -/

/-- The same state at other key levels. -/
def State.withKeys (s : State) (keys : BitVec 16) : State := { s with keys := keys }

/-- The same answer, its next state at other key levels. -/
def atKeys (keys : BitVec 16) : Result → Result
  | .next t => .next (t.withKeys keys)
  | r => r

theorem Shows.withKeys {s t : State} {c : Canvas} (h : Shows s t c) (keys : BitVec 16) :
    Shows (s.withKeys keys) (t.withKeys keys) c :=
  ⟨⟨congrArg (State.withKeys · keys) h.frame.1, h.frame.2⟩, h.flag, h.on, h.dirty⟩

/-- The canvas of a draw is computed without KEYS. -/
theorem drawSprite_withKeys (x y : RegIdx) (n : Nat) (s : State) (keys : BitVec 16) :
    drawSprite x y n (s.withKeys keys) = (drawSprite x y n s).withKeys keys :=
  (shows_drawSprite (s.withKeys keys) x y n).unique ((shows_drawSprite s x y n).withKeys keys)

@[simp] theorem withKeys_params (s : State) (keys : BitVec 16) : (s.withKeys keys).params = s.params := rfl

theorem lateRead_withKeys (before now : State) (keys : BitVec 16) :
    lateRead (before.withKeys keys) (now.withKeys keys) = (lateRead before now).withKeys keys := by
  unfold lateRead
  rw [withKeys_params]
  split <;> rfl

/-- The ordered flag write reads KEYS nowhere if its result does not. -/
theorem setFlagThenResult_withKeys (s : State) (x : RegIdx) (f : Bool) {g : State → Byte} (keys : BitVec 16)
    (hg : ∀ u : State, g (u.withKeys keys) = g u) :
    setFlagThenResult (s.withKeys keys) x f g = (setFlagThenResult s x f g).withKeys keys := by
  have hlate : g (lateRead (s.withKeys keys) (setFlag (s.withKeys keys) f)) = g (lateRead s (setFlag s f)) :=
    (congrArg g (lateRead_withKeys s (setFlag s f) keys)).trans (hg _)
  exact congrArg (setFlag (s.withKeys keys) f |>.setV x) hlate

/-! ### The endings and the range check -/

theorem atKeys_endNormal (keys : BitVec 16) (u : State) : atKeys keys (endNormal u) = endNormal (u.withKeys keys) := by
  rw [endNormal_eq, endNormal_eq]
  rfl

theorem atKeys_endPcSet (keys : BitVec 16) (u : State) : atKeys keys (endPcSet u) = endPcSet (u.withKeys keys) := by
  rw [endPcSet_eq, endPcSet_eq]
  rfl

theorem atKeys_withRangeCheck {keys : BitVec 16} {c : Nat} {s : State} {body : State → Result}
    (hbody : atKeys keys (body s) = body (s.withKeys keys)) :
    atKeys keys (withRangeCheck c s body) = withRangeCheck c (s.withKeys keys) body := by
  obtain hc | ⟨a, hc⟩ := inRange_or_outOfRange s c
  · rw [withRangeCheck_of_inRange body hc, hbody]
    exact (withRangeCheck_of_inRange (s := s.withKeys keys) body hc).symm
  · rw [withRangeCheck_of_outOfRange body hc]
    exact (withRangeCheck_of_outOfRange (s := s.withKeys keys) body hc).symm

/-! ### Two runs of an instruction -/

/-- No fault condition reads KEYS: that of SKP and SKNP is on Vx. -/
theorem atKeys_exec_of_raises {i : Instr} {s : State} {kind : FaultKind} {info : Word} (keys : BitVec 16)
    (h : Raises i s kind info) : atKeys keys (exec i s) = exec i (s.withKeys keys) := by
  have hkeys : Raises i (s.withKeys keys) kind info := h
  rw [exec_of_raises h, exec_of_raises hkeys]
  rfl

theorem atKeys_exec_ret (keys : BitVec 16) (s : State) : atKeys keys (exec .ret s) = exec .ret (s.withKeys keys) := by
  by_cases hd : 0 < s.depth.val
  · rw [exec_ret_of_entry hd]
    exact (exec_ret_of_entry (s := s.withKeys keys) hd).symm
  · have hempty : Raises .ret s .stackUnderflow s.pc := ⟨by omega, rfl, rfl⟩
    exact atKeys_exec_of_raises keys hempty

theorem atKeys_exec_callAddr (keys : BitVec 16) (nnn : Addr) (s : State) :
    atKeys keys (exec (.callAddr nnn) s) = exec (.callAddr nnn) (s.withKeys keys) := by
  by_cases hd : s.depth.val < 16
  · rw [exec_callAddr_of_room nnn hd]
    exact (exec_callAddr_of_room (s := s.withKeys keys) nnn hd).symm
  · have hfull : Raises (.callAddr nnn) s .stackOverflow s.pc := ⟨by omega, rfl, rfl⟩
    exact atKeys_exec_of_raises keys hfull

theorem atKeys_exec_ldFVx (keys : BitVec 16) (x : RegIdx) (s : State) :
    atKeys keys (exec (.ldFVx x) s) = exec (.ldFVx x) (s.withKeys keys) := by
  by_cases hv : 0x0F < (s.v x).toNat
  · have habove : Raises (.ldFVx x) s .fontOutOfRange ((s.v x).setWidth 16) := ⟨hv, rfl, toNat_setWidth_byte _⟩
    exact atKeys_exec_of_raises keys habove
  · have hglyph : exec (.ldFVx x) s = endNormal { s with idx := glyphAddress (s.v x) } := if_neg hv
    rw [hglyph, atKeys_endNormal]
    exact (if_neg hv).symm

/-- A flag writer's result is computed from registers alone. -/
theorem atKeys_endNormal_setFlagThenResult {keys : BitVec 16} {g : State → Byte} (s : State) (x : RegIdx) (f : Bool)
    (hg : ∀ u : State, g (u.withKeys keys) = g u) :
    atKeys keys (endNormal (setFlagThenResult s x f g)) = endNormal (setFlagThenResult (s.withKeys keys) x f g) := by
  rw [atKeys_endNormal, setFlagThenResult_withKeys s x f keys hg]

/-- An instruction that asks for no key does at other key levels what it did, and carries them along. -/
theorem atKeys_exec {i : Instr} (hi : ¬ i.readsKeys) (keys : BitVec 16) (s : State) :
    atKeys keys (exec i s) = exec i (s.withKeys keys) := by
  cases i with
  | skp | sknp | ldVxK => exact (hi trivial).elim
  | ret => exact atKeys_exec_ret keys s
  | callAddr nnn => exact atKeys_exec_callAddr keys nnn s
  | jmpAddr | jpV0Addr => exact atKeys_endPcSet keys _
  | ldFVx x => exact atKeys_exec_ldFVx keys x s
  | drw x y n =>
    simp only [exec, execDrw]
    refine atKeys_withRangeCheck ?_
    rw [atKeys_endNormal, drawSprite_withKeys]
  | ldBVx | ldIVx | ldVxI =>
    simp only [exec, execLdBVx, execLdIVx, execLdVxI]
    refine atKeys_withRangeCheck ?_
    exact atKeys_endNormal keys _
  | addReg x | sub x | shr x | subn x | shl x => exact atKeys_endNormal_setFlagThenResult s x _ fun _ => rfl
  | cls | seImm | sneImm | seReg | sneReg | ldImm | addImm | ldReg | orReg | andReg | xorReg | rnd | ldIAddr | ldVxDt
  | ldDtVx | ldStVx | addIVx =>
    exact atKeys_endNormal keys _

/-- Settles O51: the run at other key levels answers the same next state, at those levels. -/
theorem keysMatterOnlyToKeyInstructions : Obligations.KeysMatterOnlyToKeyInstructions := by
  intro i s t keys hi h
  exact (atKeys_exec hi keys s).symm.trans (congrArg (atKeys keys) h)

end Sys2Proof.Machine
end

section
/-! The host events, served from the queue (R100, R235, R240, R244), and the two of them that have no transition (R240, R271). -/

namespace Sys2Proof.Machine

/-- With a queued event, a step serves it in the state whose queue no longer holds it. -/
theorem step_of_queued {s : State} {e : Event} {rest : List Event} (he : s.events = e :: rest) :
    step s = serve e { s with events := rest } := by
  simp only [step, serveNext, he]

theorem step_of_emptyQueue {s : State} (he : s.events = []) : step s = tick s :=
  step_of_tickStarts (.inl ⟨he, rfl⟩)

theorem toNat_countDown (t : Byte) : (countDown t).toNat = t.toNat - 1 := by
  rw [countDown_eq, BitVec.toNat_ofNat]
  exact Nat.mod_eq_of_lt (by omega)

theorem timerStrobe_of_external {s : State} (hm : s.params.timerMode = .external) :
    timerStrobe s = .next (if s.halted then s else timerDecay s) := by
  simp only [timerStrobe, hm]

/-- Settles O11: serving Pause is the one write of the latch. -/
theorem pauseLatchesHalted : Obligations.PauseLatchesHalted := by
  intro s rest he
  rw [step_of_queued he]
  rfl

/-- Settles O12: serving Present keeps the copy and fills the mask with false. -/
theorem presentCopiesAndClearsDirty : Obligations.PresentCopiesAndClearsDirty := by
  intro s rest he
  exact ⟨_, step_of_queued he, rfl, pixel_all false⟩

/-- Settles O13, by the halt latch: set, the strobe answers the state as it is; clear, both timers count down. -/
theorem timerStrobeCountsDownUnlessHalted : Obligations.TimerStrobeCountsDownUnlessHalted := by
  intro s rest he hm
  refine ⟨_, (step_of_queued he).trans (timerStrobe_of_external hm), ?_⟩
  cases hh : s.halted with
  | true => exact ⟨rfl, rfl, rfl⟩
  | false => exact ⟨rfl, toNat_countDown s.dt, toNat_countDown s.st⟩

/-- A Tick always answers a next state: each of its branches is a result, an ending, a fault entry or an instruction. -/
theorem tick_next (s : State) : ∃ t, tick s = .next t := by
  unfold tick keyWaitTick
  split
  · exact ⟨_, rfl⟩
  · split
    · split <;> exact ⟨_, rfl⟩
    · split
      · exact ⟨_, rfl⟩
      · split
        · exact ⟨_, rfl⟩
        · next i _ => exact exec_next i s

theorem tick_ne_refused (s : State) (r : Refusal) : tick s ≠ .refused r := by
  obtain ⟨t, ht⟩ := tick_next s
  simp [ht]

theorem timerStrobe_eq_refused {s : State} {r : Refusal} :
    timerStrobe s = .refused r ↔ s.params.timerMode = .perTick ∧ r = .timerStrobePerTick := by
  cases hm : s.params.timerMode with
  | perTick => simp [timerStrobe, hm, eq_comm (a := r)]
  | external => simp [timerStrobe_of_external hm]

theorem resetEvent_eq_refused {s : State} {rom : List Byte} {r : Refusal} :
    resetEvent rom s = .refused r ↔ 3584 < rom.length ∧ r = .romTooLong := by
  unfold resetEvent
  split
  · next hfits => exact ⟨nofun, fun hlong => absurd hfits hlong.1.not_ge⟩
  · next hlong => simp [Nat.lt_of_not_le hlong, eq_comm (a := r)]

/-- The events that are refused, and why. -/
theorem serve_eq_refused {e : Event} {s : State} {r : Refusal} :
    serve e s = .refused r ↔
      (e = .timerStrobe ∧ s.params.timerMode = .perTick ∧ r = .timerStrobePerTick) ∨
      (∃ rom, e = .reset rom ∧ 3584 < rom.length ∧ r = .romTooLong) := by
  cases e with
  | tick keys => simp [serve, tick_ne_refused]
  | pause => simp [serve, pause]
  | present => simp [serve, present]
  | timerStrobe => simp [serve, timerStrobe_eq_refused]
  | reset rom => simp [serve, resetEvent_eq_refused]

/-- Settles O14, by the queue: empty, the step is a Tick, which is never refused; else it serves the first event. -/
theorem onlyForbiddenEventsAreRefused : Obligations.OnlyForbiddenEventsAreRefused := by
  intro s r
  cases he : s.events with
  | nil => simp [step_of_emptyQueue he, tick_ne_refused]
  | cons e rest =>
    rw [step_of_queued he, serve_eq_refused]
    simp

end Sys2Proof.Machine
end

section
/-! The fault table of R230, read both ways: an instruction enters a fault only where its condition holds. -/

namespace Sys2Proof.Machine

/-- A fault entry names its fault: in one state, two kinds or two informations give two entries. -/
theorem faulted_inj {k kind : FaultKind} {n info : Word} {s : State} :
    faulted k n s = faulted kind info s ↔ k = kind ∧ n = info := by
  refine ⟨fun h => ?_, by rintro ⟨rfl, rfl⟩; rfl⟩
  have herr : some (k, n) = some (kind, info) := congrArg State.err h
  simpa using herr

/-- An instruction that answers a fault entry raises that fault: one that waits or completes returns Ok. -/
theorem raises_of_exec {i : Instr} {s : State} {kind : FaultKind} {info : Word}
    (h : exec i s = .next (faulted kind info s)) : Raises i s kind info := by
  obtain ⟨k, n, hraises, heq⟩ | ⟨x, -, -, heq⟩ | ⟨u, -, heq⟩ := exec_cases h
  · obtain ⟨rfl, rfl⟩ := faulted_inj.1 heq
    exact hraises
  · cases congrArg State.result heq
  · cases congrArg State.result heq

/-- Settles O49: what answers a fault entry raises it, and what raises answers its entry. -/
theorem instructionsRaiseExactlyTheirFaults : Obligations.InstructionsRaiseExactlyTheirFaults :=
  fun _ _ _ _ => ⟨raises_of_exec, exec_of_raises⟩

end Sys2Proof.Machine
end
